-- ==== Sys2Proof/Word.lean ====
section
/-! DEFINITION. The register container, the binary32 pattern and the six-entry tables of the block. -/

namespace Sys2Proof

/-- The 32-bit container of a register (10_state.md R21). -/
abbrev Word := BitVec 32

/-- A binary32 bit pattern: the content of a register of type `f32` (10_state.md R21, 00_scope.md R13).
It is a type of its own because "a register of type `f32` is never read as an integer by any rule". -/
structure F32 where
  bits : BitVec 32
deriving DecidableEq, Repr

/-- Six like registers with the indices 0 to 5 (10_state.md R22: `CFG_HALL_EDGE`, `HALLCAL_ACC`, `HALLCAL_SEEN`). -/
structure Six (α : Type) where
  e0 : α
  e1 : α
  e2 : α
  e3 : α
  e4 : α
  e5 : α
deriving DecidableEq, Repr

/-- Entry `k` of a six-entry table. -/
def Six.get {α : Type} (t : Six α) (k : Fin 6) : α :=
  match k with
  | 0 => t.e0
  | 1 => t.e1
  | 2 => t.e2
  | 3 => t.e3
  | 4 => t.e4
  | 5 => t.e5

/-- The table with entry `k` replaced. -/
def Six.set {α : Type} (t : Six α) (k : Fin 6) (x : α) : Six α :=
  match k with
  | 0 => { t with e0 := x }
  | 1 => { t with e1 := x }
  | 2 => { t with e2 := x }
  | 3 => { t with e3 := x }
  | 4 => { t with e4 := x }
  | 5 => { t with e5 := x }

/-- The table with one value in every entry. -/
def Six.all {α : Type} (x : α) : Six α := ⟨x, x, x, x, x, x⟩

end Sys2Proof
end

