-- ==== Sys2Proof/Machine/Float.lean ====
section
/-! DEFINITION. The binary32 number system of 00_scope.md R13 to R16: round to nearest, ties to even, one rounding
per operator, nothing fused, subnormals kept (42_pll.md R177). Every finite binary32 number is an integer multiple of
2^-149, so a finite value is held exactly as its count of such units while an operator computes (log 16). -/

namespace Sys2Proof

/-- The pattern of the magnitude of an infinity: exponent field all ones, fraction zero. -/
def F32.infMag : Nat := 0x7F800000

/-- The units of 2^-149 in one. -/
def F32.one149 : Nat := 2 ^ 149

/-- The sign bit. -/
def F32.isNeg (x : F32) : Bool := x.bits.msb

/-- The 31 bits below the sign. -/
def F32.mag (x : F32) : Nat := (x.bits.setWidth 31).toNat

/-- A NaN: an exponent field of all ones and a fraction that is not zero. -/
def F32.isNaN (x : F32) : Bool := !decide (x.mag ≤ F32.infMag)

/-- An infinity of either sign. -/
def F32.isInf (x : F32) : Bool := decide (x.mag = F32.infMag)

/-- Neither a NaN nor an infinity. -/
def F32.isFinite (x : F32) : Bool := decide (x.mag < F32.infMag)

/-- The value of a magnitude pattern in units of 2^-149. The infinity's pattern gives 2^277, above every finite value. -/
def F32.unitsOfMag (m : Nat) : Nat :=
  if m < 2 ^ 23 then m else (2 ^ 23 + m % 2 ^ 23) * 2 ^ (m / 2 ^ 23 - 1)

/-- The value in units of 2^-149, exact for a finite number. -/
def F32.units (x : F32) : Int :=
  if x.isNeg then -(F32.unitsOfMag x.mag : Int) else (F32.unitsOfMag x.mag : Int)

/-- `n / d` to the nearest integer, ties to even. -/
def roundDiv (n d : Nat) : Nat :=
  if 2 * (n % d) > d ∨ (2 * (n % d) = d ∧ n / d % 2 = 1) then n / d + 1 else n / d

/-- The magnitude pattern of the binary32 number nearest to `n / d` units, ties to even; a value past the largest
finite number gives the infinity. The quantum at `n / d` is `2 ^ e` units, and a significand that rounds up to `2 ^ 24`
carries into the exponent field by itself. -/
def F32.roundMag (n d : Nat) : Nat :=
  min ((Nat.log2 (n / d) - 23) * 2 ^ 23 + roundDiv n (d * 2 ^ (Nat.log2 (n / d) - 23))) F32.infMag

/-- The number of a sign and a magnitude pattern. -/
def F32.ofMag (neg : Bool) (m : Nat) : F32 :=
  ⟨BitVec.cons neg (BitVec.ofNat 31 m)⟩

/-- The binary32 number nearest to `k / d` units, a zero being positive. -/
def F32.ofUnits (k : Int) (d : Nat) : F32 :=
  F32.ofMag (decide (k < 0)) (F32.roundMag k.natAbs d)

/-- The NaN that an invalid operation gives inside the model; its payload is seen by no rule (42_pll.md R177, log 9). -/
def F32.nan : F32 := ⟨0x7FC00000⟩

def F32.zero : F32 := ⟨0⟩
def F32.half : F32 := ⟨0x3F000000⟩
def F32.one : F32 := ⟨0x3F800000⟩
def F32.two : F32 := ⟨0x40000000⟩
def F32.six : F32 := ⟨0x40C00000⟩
def F32.quarter : F32 := ⟨0x3E800000⟩

/-- `PI` of R13. -/
def F32.pi : F32 := ⟨0x40490FDB⟩
/-- `TWO_PI` of R13. -/
def F32.twoPi : F32 := ⟨0x40C90FDB⟩
/-- The binary32 0.05 of 44_abs_spi.md R205. -/
def F32.fivePercent : F32 := ⟨0x3D4CCCCD⟩

/-- `-x`: the sign bit flipped. -/
def F32.negate (x : F32) : F32 := ⟨x.bits ^^^ 0x80000000⟩

/-- `abs(x)` clears the sign (R13). -/
def F32.abs (x : F32) : F32 := ⟨x.bits &&& 0x7FFFFFFF⟩

/-- `x + y` (R13). A sum of exactly zero is negative only where both operands are. -/
def F32.add (x y : F32) : F32 :=
  if x.isNaN || y.isNaN then F32.nan
  else if x.isInf then
    if y.isInf && (x.isNeg != y.isNeg) then F32.nan else x
  else if y.isInf then y
  else if x.units + y.units = 0 then F32.ofMag (x.isNeg && y.isNeg) 0
  else F32.ofUnits (x.units + y.units) 1

/-- `x - y` (R13). -/
def F32.sub (x y : F32) : F32 := x.add y.negate

/-- `x * y` (R13). -/
def F32.mul (x y : F32) : F32 :=
  if x.isNaN || y.isNaN then F32.nan
  else if x.isInf || y.isInf then
    if x.mag = 0 ∨ y.mag = 0 then F32.nan else F32.ofMag (x.isNeg != y.isNeg) F32.infMag
  else F32.ofMag (x.isNeg != y.isNeg) (F32.roundMag (x.units.natAbs * y.units.natAbs) F32.one149)

/-- `x / y` (R13). -/
def F32.div (x y : F32) : F32 :=
  if x.isNaN || y.isNaN then F32.nan
  else if x.isInf then
    if y.isInf then F32.nan else F32.ofMag (x.isNeg != y.isNeg) F32.infMag
  else if y.isInf then F32.ofMag (x.isNeg != y.isNeg) 0
  else if y.mag = 0 then
    if x.mag = 0 then F32.nan else F32.ofMag (x.isNeg != y.isNeg) F32.infMag
  else F32.ofMag (x.isNeg != y.isNeg) (F32.roundMag (x.units.natAbs * F32.one149) y.units.natAbs)

/-- `f32(i)`: an integer to binary32 (R13). -/
def F32.ofInt (i : Int) : F32 := F32.ofUnits (i * F32.one149) 1

/-- What the IEEE comparisons compare: nothing for a NaN, else a value that orders as the numbers do. -/
def F32.key (x : F32) : Option Int := if x.isNaN then none else some x.units

/-- `x < y`: false where either is a NaN (R13). -/
def F32.lt (x y : F32) : Bool :=
  match x.key, y.key with
  | some a, some b => decide (a < b)
  | _, _ => false

/-- `x <= y`: false where either is a NaN (R13). -/
def F32.le (x y : F32) : Bool :=
  match x.key, y.key with
  | some a, some b => decide (a ≤ b)
  | _, _ => false

/-- `x > y` (R13). -/
def F32.gt (x y : F32) : Bool := y.lt x

/-- `x >= y` (R13). -/
def F32.ge (x y : F32) : Bool := y.le x

/-- An integer that a rule uses as a 32-bit quantity: inside `[-2^31, 2^31)` or nothing (R14). -/
def within32 (i : Int) : Option Int :=
  if -2147483648 ≤ i ∧ i < 2147483648 then some i else none

/-- `floor_int(x)` (R14): nothing where the operation is REFUSED (not finite, or outside 32 bits). -/
def F32.floorInt (x : F32) : Option Int :=
  if x.isFinite then within32 (x.units / (F32.one149 : Int)) else none

/-- `trunc_int(x)` (R14): toward zero, under the same condition. -/
def F32.truncInt (x : F32) : Option Int :=
  if x.isFinite then within32 (Int.tdiv x.units (F32.one149 : Int)) else none

/-- `fmod_pos(x, y)` (R15): the exact floored remainder, rounded once, clamped below `y`. Where `x` or `y` is not
finite, or `y` is not positive, the remainder is an invalid operation and the result a NaN (R177, log 12). -/
def F32.fmodPos (x y : F32) : F32 :=
  if x.isFinite && y.isFinite && F32.zero.lt y then
    if (F32.ofUnits (x.units % y.units) 1).ge y then F32.zero else F32.ofUnits (x.units % y.units) 1
  else F32.nan

/-- The representative of `a` modulo `n` in `(-n/2, n/2]`; `centered(a, n)` of R12 and the exact `r` of R16. -/
def centered (a n : Int) : Int :=
  if 2 * (a % n) > n then a % n - n else a % n

/-- `wrap_pm(x, y)` (R16): the exact centred remainder, rounded once, clamped above `-y/2`. Nothing where `x` is not
finite: the operation is then REFUSED (R177, 93_implementation_defined.md U4, log 12). -/
def F32.wrapPm (x y : F32) : Option F32 :=
  if x.isFinite && y.isFinite && F32.zero.lt y then
    if (F32.ofUnits (centered x.units y.units) 1).le (y.div F32.two).negate then some (y.div F32.two)
    else some (F32.ofUnits (centered x.units y.units) 1)
  else none

end Sys2Proof
end

