-- ==== Sys2Proof/Machine/Arith.lean ====
section
/-! DEFINITION. The integer primitives of 00_scope.md R12 and the counter's steps (41_tracker.md R156): formed on
mathematical integers and reduced once. -/

namespace Sys2Proof

/-- `mod(a, n)` for `n > 0`: the floored modulo, in `[0, n)` for every sign of `a` (R12). -/
def modPos (a n : Int) : Int := a % n

/-- `wrap32(a)`: reduced into `[-2^31, 2^31)` (R12); as a register content, the low 32 bits. -/
def wrap32 (a : Int) : Word := BitVec.ofInt 32 a

/-- `sext_16(a)`: reduced into `[-32768, 32768)` (R12). -/
def sext16 (a : Int) : Int := (BitVec.ofInt 16 a).toInt

/-- The low 16 bits of a 32-bit register. -/
def low16 (w : Word) : BitVec 16 := w.setWidth 16

/-- One step of the 16-bit counter by `d`, modulo 2^16 (45_system.md R236, R237). -/
def counterStep (c : BitVec 16) (d : Int) : BitVec 16 := BitVec.ofInt 16 (c.toNat + d)

/-- `min(n + 1, 2^32 - 1)` of 43_hall.md R194. -/
def satSucc (n : Word) : Word := BitVec.ofNat 32 (min (n.toNat + 1) 4294967295)

/-- A signed 32-bit register as a binary32 number, `f32(i)` (R13). -/
def f32OfWord (w : Word) : F32 := F32.ofInt w.toInt

end Sys2Proof
end

