-- ==== Sys2Proof/Config.lean ====
section
/-! DEFINITION. What an implementation fixes (00_scope.md R6) and the free values of the block. -/

namespace Sys2Proof

/-- Which `hall_model` the implementation has: the default of 42_pll.md R166, or another function that keeps R166's two
constraints (log 5). -/
inductive HallModelKind where
  | default
  | other
deriving DecidableEq, Repr

/-- The implementation parameters of 00_scope.md R6 that are plain data. They are no state of the spec (10_state.md
R56); the model keeps them in `State.params`, which no operation writes, so that a claim about every state is a claim
about every implementation (log 4). -/
structure Params where
  /-- `N_ABS`: the number of absolute-SPI variants. -/
  nAbs : Nat
  /-- `READY_CLEAR_MASK`: which fault kinds clear `is_ready`. -/
  readyClearMask : BitVec 8
  /-- `CIRC_REBASE_PLL`: does `set_circular_count` also rebase `pos_cpr_counts`. -/
  circRebasePll : Bool
  /-- `INDEX_UPDATE_OFFSET`: does the index callback shift `phase_offset`. -/
  indexUpdateOffset : Bool
  /-- `hall_model`. -/
  hallModel : HallModelKind
  /-- `INDEX_EDGE_POLARITY`: a code of the platform's enumeration, whose members the spec does not name. -/
  indexEdgePolarity : Nat
  /-- `INDEX_PULL`: likewise. -/
  indexPull : Nat
deriving DecidableEq, Repr

/-- The defaults of R6. DESIGN CHOICE (log 4), unsafe: `N_ABS = 1` and the two codes 0, for which R6 gives no default. -/
def Params.default : Params :=
  { nAbs := 1, readyClearMask := 0xFF, circRebasePll := false, indexUpdateOffset := true,
    hallModel := .default, indexEdgePolarity := 0, indexPull := 0 }

/-- `abs_decode[v]` (44_abs_spi.md R204): a total function from a 16-bit frame to `rejected` or a 14-bit position; the
spec gives no layout, so it has no body (log 5). -/
opaque Config.absDecode : Nat → BitVec 16 → Option (BitVec 14)

/-- What `sincos_count` (41_tracker.md R145) computes before it is brought into `[0, cpr)`: no body (log 5). -/
opaque Config.sincosRaw : F32 → F32 → Int → Int

/-- By how much a `hall_model` other than the default differs from the floor before R166's constraints: no body (log 5). -/
opaque Config.hallModelSlack : F32 → Six F32 → Int

/-- `ABS_TX_WORD` (20_memory.md R72): no body (log 6). -/
opaque Config.absTxWord : BitVec 16

/-- `HWCNT` at reset: "any 16-bit value, a free draw of the model" (10_state.md R55, log 7). -/
opaque Config.hwcntAtReset : BitVec 16

/-- `SPIBUF_RX` at reset: unspecified (10_state.md R55, 93_implementation_defined.md U10, log 7). -/
opaque Config.spiRxAtReset : BitVec 16

/-- The sign and payload of a NaN as REG_READ sees it (93_implementation_defined.md U5): free for each draw, register
index and content (log 9). -/
opaque Config.nanBits : Nat → BitVec 8 → BitVec 32 → BitVec 32

end Sys2Proof
end

