-- ==== Sys2Proof/Syntax.lean ====
section
/-! DEFINITION. The agents, the operations and the fault kinds of the block. -/

namespace Sys2Proof

/-- The agents of 00_scope.md R9. -/
inductive Agent where
  | tick
  | loop
  | index
  | spicb
  | enc
  | host
deriving DecidableEq, Repr

/-- The 17 operations with their operands (30_encoding.md R104, R106), one constructor per row of opcode_table.json. -/
inductive Instr where
  | sample
  | update
  | indexPulse
  | spiDone (ok : Bool) (frame : BitVec 16)
  | countUp
  | countDown
  | setLinearCount (n : BitVec 32)
  | setCircularCount (n : BitVec 32) (updateOffset : Bool)
  | updatePllGains
  | raiseError (mask : BitVec 8)
  | clearErrors
  | armIndex
  | disarmIndex
  | hallcalStart
  | hallcalStop
  | regRead (idx : BitVec 8)
  | regWrite (idx : BitVec 8) (value : BitVec 32)
deriving DecidableEq, Repr

/-- The eight fault kinds of 60_exceptions.md R260, in the order of its bits. -/
inductive FaultKind where
  | unstableGain
  | illegalHallState
  | absSpiComFail
  | unsupportedMode
  | cprPolepairsMismatch
  | noResponse
  | indexNotFoundYet
  | hallNotCalibratedYet
deriving DecidableEq, Repr

/-- The registers of 10_state.md R22. -/
inductive Reg where
  | cfgMode
  | cfgCpr
  | cfgBandwidth
  | cfgDirection
  | cfgPhaseOffset
  | cfgPhaseOffsetFloat
  | cfgHallEdge (k : Fin 6)
  | cfgHallPolarity
  | cfgFlags
  | cfgCalibScanVel
  | cfgCalibScanDistance
  | cfgCalibRange
  | cfgIndexOffset
  | isReady
  | indexFound
  | hallPolarityCalibrated
  | xPeriod
  | xPolePairs
  | xCircRange
  | xSpiErrAlpha
  | shadowCount
  | countInCpr
  | posEstimateCounts
  | velEstimateCounts
  | posCprCounts
  | interpolation
  | posCircular
  | phase
  | phaseVel
  | pllKp
  | pllKi
  | timCntSample
  | hallState
  | sincosS
  | sincosC
  | posAbs
  | spiErrorRate
  | status
  | error
  | hwcnt
  | hallcalAcc (k : Fin 6)
  | hallcalSeen (k : Fin 6)
  | lastHallCnt
deriving DecidableEq, Repr

/-- The host's write classes of 45_system.md R232. -/
inductive HostClass where
  | rw
  | cal
  | ro
deriving DecidableEq, Repr

/-- The types of a register (10_state.md R21). -/
inductive RegType where
  | s32
  | u (bits : Nat)
  | f32
  | flags
deriving DecidableEq, Repr

end Sys2Proof
end

