-- ==== Sys2Proof/Machine/State.lean ====
section
/-! DEFINITION. The state of one block instance (10_state.md R20, R22), the model's own fields beside it, the reasons a
step has no next state, and the state after reset (R55, 70_reset_and_hazards.md R300). -/

namespace Sys2Proof.Machine

/-- `CFG_FLAGS` (10_state.md R45): its reserved bits read as zero and are ignored on write (20_memory.md R77). -/
structure CfgFlags where
  useIndex : Bool
  preCalibrated : Bool
  enablePhaseInterpolation : Bool
  ignoreIllegalHallState : Bool
  useIndexOffset : Bool
deriving DecidableEq, Repr

/-- The configuration registers (10_state.md R38 to R46). -/
structure Cfg where
  /-- `CFG_MODE`, R38. -/
  mode : Word
  /-- `CFG_CPR`, R39. -/
  cpr : Word
  /-- `CFG_BANDWIDTH`, R40. -/
  bandwidth : F32
  /-- `CFG_DIRECTION`, R41. -/
  direction : Word
  /-- `CFG_PHASE_OFFSET`, R42. -/
  phaseOffset : Word
  /-- `CFG_PHASE_OFFSET_FLOAT`, R42. -/
  phaseOffsetFloat : F32
  /-- `CFG_HALL_EDGE0` to `CFG_HALL_EDGE5`, R43. -/
  hallEdge : Six F32
  /-- `CFG_HALL_POLARITY`, R44. -/
  hallPolarity : BitVec 3
  /-- `CFG_FLAGS`, R45. -/
  flags : CfgFlags
  /-- `CFG_CALIB_SCAN_VEL`, R46. -/
  calibScanVel : F32
  /-- `CFG_CALIB_SCAN_DISTANCE`, R46. -/
  calibScanDistance : F32
  /-- `CFG_CALIB_RANGE`, R46. -/
  calibRange : F32
  /-- `CFG_INDEX_OFFSET`, R46. -/
  indexOffset : F32
deriving DecidableEq, Repr

/-- The platform parameter registers (10_state.md R47). -/
structure Plat where
  /-- `X_PERIOD`. -/
  period : F32
  /-- `X_POLE_PAIRS`. -/
  polePairs : Word
  /-- `X_CIRC_RANGE`. -/
  circRange : F32
  /-- `X_SPI_ERR_ALPHA`. -/
  spiErrAlpha : F32
deriving DecidableEq, Repr

/-- "Has been written since reset" (10_state.md R50), for the registers to which the spec gives no value at reset (R55). Until
then such a register holds the value that log 8 names. -/
structure Written where
  mode : Bool
  cpr : Bool
  bandwidth : Bool
  flags : Bool
  calibScanVel : Bool
  calibScanDistance : Bool
  calibRange : Bool
  indexOffset : Bool
  period : Bool
  polePairs : Bool
  circRange : Bool
  spiErrAlpha : Bool
deriving DecidableEq, Repr

/-- The runtime estimator registers (10_state.md R23 to R31). -/
structure Est where
  /-- `SHADOW_COUNT`, R23. -/
  shadowCount : Word
  /-- `COUNT_IN_CPR`, R24. -/
  countInCpr : Word
  /-- `POS_ESTIMATE_COUNTS`, R25. -/
  posEstimate : F32
  /-- `VEL_ESTIMATE_COUNTS`, R25. -/
  velEstimate : F32
  /-- `POS_CPR_COUNTS`, R26. -/
  posCpr : F32
  /-- `INTERPOLATION`, R27. -/
  interpolation : F32
  /-- `POS_CIRCULAR`, R28. -/
  posCircular : F32
  /-- `PHASE`, R30. -/
  phase : F32
  /-- `PHASE_VEL`, R30. -/
  phaseVel : F32
  /-- `PLL_KP`, R31. -/
  kp : F32
  /-- `PLL_KI`, R31. -/
  ki : F32
deriving DecidableEq, Repr

/-- The raw-sample registers (10_state.md R32). -/
structure Raw where
  /-- `TIM_CNT_SAMPLE`. -/
  timCntSample : BitVec 16
  /-- `HALL_STATE`: the raw bits, before the polarity mask. -/
  hallState : BitVec 3
  /-- `SINCOS_S`. -/
  sincosS : F32
  /-- `SINCOS_C`. -/
  sincosC : F32
deriving DecidableEq, Repr

/-- The absolute-SPI registers and the two SPI buffers (10_state.md R33, 20_memory.md R72). -/
structure Spi where
  /-- `POS_ABS`. -/
  posAbs : BitVec 14
  /-- `SPI_ERROR_RATE`. -/
  errorRate : F32
  /-- `SPIBUF_TX`: two bytes, accessed only whole (R76). -/
  tx : BitVec 16
  /-- `SPIBUF_RX`: two bytes, accessed only whole (R76). -/
  rx : BitVec 16
deriving DecidableEq, Repr

/-- `STATUS` (10_state.md R35): bits 31:6 are reserved and read as zero. -/
structure Status where
  absSpiPosUpdated : Bool
  spiInflight : Bool
  indexArmed : Bool
  posValid : Bool
  velValid : Bool
  calibrateHallPhase : Bool
deriving DecidableEq, Repr

/-- The Hall phase-calibration scratch registers (10_state.md R49). -/
structure HallCal where
  /-- `HALLCAL_ACC0` to `HALLCAL_ACC5`. -/
  acc : Six F32
  /-- `HALLCAL_SEEN0` to `HALLCAL_SEEN5`. -/
  seen : Six Word
  /-- `LAST_HALL_CNT`: -1 for none. -/
  lastHallCnt : Word
deriving DecidableEq, Repr

/-- The values on the input ports (10_state.md R52) as an operation finds them: inputs of the step (log 2). -/
structure Ports where
  hallSnapshot : BitVec 3
  adcSin : F32
  adcCos : F32
  spiAccept : Bool
  olPhaseValid : Bool
  olPhase : F32
  subscribeOk : Bool
deriving DecidableEq, Repr

/-- An operation presented to the block: the agent's port, the operation word (30_encoding.md R100) and the values then
present on the input ports (00_scope.md R8, log 1). -/
structure Request where
  agent : Agent
  word : BitVec 64
  ports : Ports
deriving DecidableEq, Repr

/-- The outcomes of an operation that has one (00_scope.md R10): REFUSED is a step without a next state. -/
inductive OpResult where
  | ok
  | fail
deriving DecidableEq, Repr

/-- The two SPI buffers of the block, as a transfer request names them (20_memory.md R72). -/
inductive SpiBuffer where
  | spibufTx
  | spibufRx
deriving DecidableEq, Repr

/-- The event `spi_request(tx, rx, length)` of 40_sampler.md R134, with the word that then lies in the transmit buffer
(44_abs_spi.md R201). -/
structure SpiRequest where
  /-- The buffer sent from. -/
  tx : SpiBuffer
  /-- The buffer that the answer goes to. -/
  rx : SpiBuffer
  /-- The length, in words of 16 bits. -/
  words : Nat
  /-- The word sent. -/
  sent : BitVec 16
deriving DecidableEq, Repr

/-- The calls on the GPIO collaborator (60_exceptions.md R281, log 19). -/
inductive GpioCall where
  | subscribe (edgePolarity pull : Nat)
  | unsubscribe
deriving DecidableEq, Repr

/-- What the last operation gave out beside the registers (30_encoding.md R106, 10_state.md R53, log 3). -/
structure Outputs where
  result : OpResult
  /-- The result port `rdata` of REG_READ. -/
  rdata : Option Word
  spiRequest : Option SpiRequest
  gpio : Option GpioCall
deriving DecidableEq, Repr

/-- The outputs of an operation that gives out nothing but its outcome. -/
def Outputs.plain (r : OpResult) : Outputs := { result := r, rdata := none, spiRequest := none, gpio := none }

/-- The state of the block (10_state.md R20), then the model's own fields. -/
structure State where
  cfg : Cfg
  plat : Plat
  written : Written
  est : Est
  raw : Raw
  spi : Spi
  /-- `HWCNT`, R34. -/
  hwcnt : BitVec 16
  status : Status
  /-- `IS_READY`, R36. -/
  isReady : Bool
  /-- `INDEX_FOUND`, R36. -/
  indexFound : Bool
  /-- `HALL_POLARITY_CALIBRATED`, R36. -/
  hallPolarityCalibrated : Bool
  /-- `ERROR`, R37. -/
  error : BitVec 8
  hallCal : HallCal
  /-- The model's own: the implementation parameters of 00_scope.md R6 (log 4). -/
  params : Params
  /-- The model's own: the input ports as the current operation finds them (log 2). -/
  ports : Ports
  /-- The model's own: the requests still to come, the next one first (log 1). -/
  pending : List Request
  /-- The model's own: what the last operation gave out (log 3). -/
  out : Outputs
  /-- The model's own: which free draw of a NaN's sign and payload is in force (log 9). -/
  draws : Nat
deriving DecidableEq, Repr

/-- The machine never stops with a fault: its eight fault kinds are behaviour, and "nothing is treated as stuck or as a
fault beyond the eight kinds" (70_reset_and_hazards.md R326, 60_exceptions.md R261). -/
inductive Fault
deriving DecidableEq, Repr

/-- Why a step is REFUSED (00_scope.md R10): the spec gives the operation no meaning in this state. Every one of them is
safe: the model stops where the spec says that it must not invent a next state. -/
inductive Refusal where
  /-- Raised by no arm: the operation has no meaning in this model. Safe. -/
  | notModelled (mnemonic : String)
  /-- A word that encodes no operation (30_encoding.md R107, U1). Raised by the decoder's caller. Safe. -/
  | reservedWord
  /-- An operation on the wrong agent's port (60_exceptions.md R276, U8). Raised by the step. Safe. -/
  | wrongAgent
  /-- A register that the operation needs holds an illegal value (10_state.md R50, U2). Raised by UPDATE, UPDATE_PLL_GAINS,
  SET_CIRCULAR_COUNT, INDEX_PULSE. Safe. -/
  | invalidConfig
  /-- A conversion to integer is not finite or leaves 32 bits (00_scope.md R14, U3). Raised by UPDATE, INDEX_PULSE. Safe. -/
  | floatToInt
  /-- A value that is not finite reaches `wrap_pm` (42_pll.md R174, R177, U4). Raised by UPDATE. Safe. -/
  | notFinite
  /-- A register index that is reserved (10_state.md R22, U7). Raised by REG_READ, REG_WRITE. Safe. -/
  | reservedIndex
  /-- A write of a register of class `ro` (45_system.md R231, U7). Raised by REG_WRITE. Safe. -/
  | readOnlyRegister
  /-- A write of `CFG_DIRECTION` with a value other than -1, 0, +1 (45_system.md R231, U7). Raised by REG_WRITE. Safe. -/
  | illegalDirection
  /-- SPI_DONE with nothing in flight (44_abs_spi.md R202, U9). Raised by SPI_DONE. Safe. -/
  | nothingInFlight
deriving DecidableEq, Repr

/-- The default Hall edge table: 0.0, 1.0, 2.0, 3.0, 4.0, 5.0 (10_state.md R43). -/
def defaultHallEdges : Six F32 :=
  ⟨⟨0x00000000⟩, ⟨0x3F800000⟩, ⟨0x40000000⟩, ⟨0x40400000⟩, ⟨0x40800000⟩, ⟨0x40A00000⟩⟩

/-- Ports with nothing on them: the model's own value at reset (log 2). -/
def Ports.idle : Ports :=
  { hallSnapshot := 0, adcSin := ⟨0⟩, adcCos := ⟨0⟩, spiAccept := false, olPhaseValid := false,
    olPhase := ⟨0⟩, subscribeOk := false }

/-- The state after reset, register by register as 10_state.md R55. The twelve registers to which R55 gives no value hold 0,
with their written bit clear (DESIGN CHOICE, log 8); `HWCNT` and `SPIBUF_RX` are free draws (log 7). -/
def State.reset : State :=
  { cfg :=
      { mode := 0, cpr := 0, bandwidth := ⟨0⟩, direction := 0, phaseOffset := 0, phaseOffsetFloat := ⟨0⟩,
        hallEdge := defaultHallEdges, hallPolarity := 0, flags := ⟨false, false, false, false, false⟩,
        calibScanVel := ⟨0⟩, calibScanDistance := ⟨0⟩, calibRange := ⟨0⟩, indexOffset := ⟨0⟩ }
    plat := { period := ⟨0⟩, polePairs := 0, circRange := ⟨0⟩, spiErrAlpha := ⟨0⟩ }
    written :=
      { mode := false, cpr := false, bandwidth := false, flags := false, calibScanVel := false,
        calibScanDistance := false, calibRange := false, indexOffset := false, period := false,
        polePairs := false, circRange := false, spiErrAlpha := false }
    est :=
      { shadowCount := 0, countInCpr := 0, posEstimate := ⟨0⟩, velEstimate := ⟨0⟩, posCpr := ⟨0⟩,
        interpolation := ⟨0⟩, posCircular := ⟨0⟩, phase := ⟨0⟩, phaseVel := ⟨0⟩, kp := ⟨0⟩, ki := ⟨0⟩ }
    raw := { timCntSample := 0, hallState := 0, sincosS := ⟨0⟩, sincosC := ⟨0⟩ }
    spi := { posAbs := 0, errorRate := ⟨0⟩, tx := Config.absTxWord, rx := Config.spiRxAtReset }
    hwcnt := Config.hwcntAtReset
    status := ⟨false, false, false, false, false, false⟩
    isReady := false
    indexFound := false
    hallPolarityCalibrated := false
    error := 0
    hallCal := { acc := Six.all ⟨0⟩, seen := Six.all 0, lastHallCnt := 0xFFFFFFFF }
    params := Params.default
    ports := Ports.idle
    pending := []
    out := Outputs.plain .ok
    draws := 0 }

end Sys2Proof.Machine
end

