-- ==== Sys2Proof/Machine/Flags.lean ====
section
/-! DEFINITION. The flag registers as words and every flag computation of the block: `STATUS` (10_state.md R35),
`CFG_FLAGS` (R45), the one-bit registers (R36), the bits of `ERROR` (60_exceptions.md R260), the validity flags (42_pll.md R176). -/

namespace Sys2Proof.Machine

/-- A Boolean as the number of its bit. -/
def bitNat (b : Bool) : Nat := if b then 1 else 0

/-- `STATUS` as a word: bits 31:6 read as zero (10_state.md R35). -/
def Status.toWord (t : Status) : Word :=
  BitVec.ofNat 32
    (bitNat t.absSpiPosUpdated + 2 * bitNat t.spiInflight + 4 * bitNat t.indexArmed + 8 * bitNat t.posValid
      + 16 * bitNat t.velValid + 32 * bitNat t.calibrateHallPhase)

/-- `CFG_FLAGS` as a word: bits 31:5 read as zero (10_state.md R45, 20_memory.md R77). -/
def CfgFlags.toWord (f : CfgFlags) : Word :=
  BitVec.ofNat 32
    (bitNat f.useIndex + 2 * bitNat f.preCalibrated + 4 * bitNat f.enablePhaseInterpolation
      + 8 * bitNat f.ignoreIllegalHallState + 16 * bitNat f.useIndexOffset)

/-- `CFG_FLAGS` from a written word: bits 31:5 are ignored (10_state.md R45, 20_memory.md R77). -/
def CfgFlags.ofWord (w : Word) : CfgFlags :=
  { useIndex := w.getLsbD 0, preCalibrated := w.getLsbD 1, enablePhaseInterpolation := w.getLsbD 2,
    ignoreIllegalHallState := w.getLsbD 3, useIndexOffset := w.getLsbD 4 }

/-- A one-bit register as a word: bits 31:1 read as zero (10_state.md R36). -/
def flagWord (b : Bool) : Word := BitVec.ofNat 32 (bitNat b)

/-- The bit number K of a fault kind (60_exceptions.md R260). -/
def faultBit (k : FaultKind) : Nat :=
  match k with
  | .unstableGain => 0
  | .illegalHallState => 1
  | .absSpiComFail => 2
  | .unsupportedMode => 3
  | .cprPolepairsMismatch => 4
  | .noResponse => 5
  | .indexNotFoundYet => 6
  | .hallNotCalibratedYet => 7

/-- The mask of a fault kind, `1 << K` (60_exceptions.md R260). -/
def faultMask (k : FaultKind) : BitVec 8 := BitVec.ofNat 8 (2 ^ faultBit k)

/-- The fault kinds in ascending order of their bits (45_system.md R228). -/
def faultKinds : List FaultKind :=
  [.unstableGain, .illegalHallState, .absSpiComFail, .unsupportedMode,
   .cprPolepairsMismatch, .noResponse, .indexNotFoundYet, .hallNotCalibratedYet]

/-- `is_ready` after a fault of kind `k`: cleared where `READY_CLEAR_MASK` has the kind's bit (60_exceptions.md R262). -/
def readyAfterFault (p : Params) (k : FaultKind) (ready : Bool) : Bool :=
  if p.readyClearMask.getLsbD (faultBit k) then false else ready

/-- The validity flags at the end of a complete UPDATE (42_pll.md R176): set where no fault bit stands. -/
def validityFlags (s : State) : State :=
  if s.error = 0 then { s with status.posValid := true, status.velValid := true } else s

/-- The output `encoder_failed` (10_state.md R53). -/
def State.encoderFailed (s : State) : Bool := decide (s.error ≠ 0)

/-- The output `phase_out` (10_state.md R53). -/
def State.phaseOut (s : State) : F32 := s.est.phase

/-- The output `phase_vel_out` (10_state.md R53). -/
def State.phaseVelOut (s : State) : F32 := s.est.phaseVel

end Sys2Proof.Machine
end

