-- ==== Sys2Proof/Machine/RegTable.lean ====
section
/-! DEFINITION. The register table of 10_state.md R22: index, type and host write class of every register. -/

namespace Sys2Proof

/-- The register of an index; nothing for a reserved index (R22: 0x15 to 0x17, 0x1C to 0x1F, 0x41 to 0xFF). -/
def Reg.ofIndex (idx : BitVec 8) : Option Reg :=
  match idx.toNat with
  | 0x00 => some .cfgMode
  | 0x01 => some .cfgCpr
  | 0x02 => some .cfgBandwidth
  | 0x03 => some .cfgDirection
  | 0x04 => some .cfgPhaseOffset
  | 0x05 => some .cfgPhaseOffsetFloat
  | 0x06 => some (.cfgHallEdge 0)
  | 0x07 => some (.cfgHallEdge 1)
  | 0x08 => some (.cfgHallEdge 2)
  | 0x09 => some (.cfgHallEdge 3)
  | 0x0A => some (.cfgHallEdge 4)
  | 0x0B => some (.cfgHallEdge 5)
  | 0x0C => some .cfgHallPolarity
  | 0x0D => some .cfgFlags
  | 0x0E => some .cfgCalibScanVel
  | 0x0F => some .cfgCalibScanDistance
  | 0x10 => some .cfgCalibRange
  | 0x11 => some .cfgIndexOffset
  | 0x12 => some .isReady
  | 0x13 => some .indexFound
  | 0x14 => some .hallPolarityCalibrated
  | 0x18 => some .xPeriod
  | 0x19 => some .xPolePairs
  | 0x1A => some .xCircRange
  | 0x1B => some .xSpiErrAlpha
  | 0x20 => some .shadowCount
  | 0x21 => some .countInCpr
  | 0x22 => some .posEstimateCounts
  | 0x23 => some .velEstimateCounts
  | 0x24 => some .posCprCounts
  | 0x25 => some .interpolation
  | 0x26 => some .posCircular
  | 0x27 => some .phase
  | 0x28 => some .phaseVel
  | 0x29 => some .pllKp
  | 0x2A => some .pllKi
  | 0x2B => some .timCntSample
  | 0x2C => some .hallState
  | 0x2D => some .sincosS
  | 0x2E => some .sincosC
  | 0x2F => some .posAbs
  | 0x30 => some .spiErrorRate
  | 0x31 => some .status
  | 0x32 => some .error
  | 0x33 => some .hwcnt
  | 0x34 => some (.hallcalAcc 0)
  | 0x35 => some (.hallcalAcc 1)
  | 0x36 => some (.hallcalAcc 2)
  | 0x37 => some (.hallcalAcc 3)
  | 0x38 => some (.hallcalAcc 4)
  | 0x39 => some (.hallcalAcc 5)
  | 0x3A => some (.hallcalSeen 0)
  | 0x3B => some (.hallcalSeen 1)
  | 0x3C => some (.hallcalSeen 2)
  | 0x3D => some (.hallcalSeen 3)
  | 0x3E => some (.hallcalSeen 4)
  | 0x3F => some (.hallcalSeen 5)
  | 0x40 => some .lastHallCnt
  | _ => none

/-- The index of a register (R22). -/
def Reg.index (r : Reg) : BitVec 8 :=
  match r with
  | .cfgMode => 0x00
  | .cfgCpr => 0x01
  | .cfgBandwidth => 0x02
  | .cfgDirection => 0x03
  | .cfgPhaseOffset => 0x04
  | .cfgPhaseOffsetFloat => 0x05
  | .cfgHallPolarity => 0x0C
  | .cfgFlags => 0x0D
  | .cfgCalibScanVel => 0x0E
  | .cfgCalibScanDistance => 0x0F
  | .cfgCalibRange => 0x10
  | .cfgIndexOffset => 0x11
  | .isReady => 0x12
  | .indexFound => 0x13
  | .hallPolarityCalibrated => 0x14
  | .xPeriod => 0x18
  | .xPolePairs => 0x19
  | .xCircRange => 0x1A
  | .xSpiErrAlpha => 0x1B
  | .shadowCount => 0x20
  | .countInCpr => 0x21
  | .posEstimateCounts => 0x22
  | .velEstimateCounts => 0x23
  | .posCprCounts => 0x24
  | .interpolation => 0x25
  | .posCircular => 0x26
  | .phase => 0x27
  | .phaseVel => 0x28
  | .pllKp => 0x29
  | .pllKi => 0x2A
  | .timCntSample => 0x2B
  | .hallState => 0x2C
  | .sincosS => 0x2D
  | .sincosC => 0x2E
  | .posAbs => 0x2F
  | .spiErrorRate => 0x30
  | .status => 0x31
  | .error => 0x32
  | .hwcnt => 0x33
  | .lastHallCnt => 0x40
  | .cfgHallEdge k => 0x06 + BitVec.ofNat 8 k.val
  | .hallcalAcc k => 0x34 + BitVec.ofNat 8 k.val
  | .hallcalSeen k => 0x3A + BitVec.ofNat 8 k.val

/-- The type of a register (R22). -/
def Reg.type (r : Reg) : RegType :=
  match r with
  | .cfgMode => .u 32
  | .cfgCpr => .s32
  | .cfgBandwidth => .f32
  | .cfgDirection => .s32
  | .cfgPhaseOffset => .s32
  | .cfgPhaseOffsetFloat => .f32
  | .cfgHallPolarity => .u 3
  | .cfgFlags => .flags
  | .cfgCalibScanVel => .f32
  | .cfgCalibScanDistance => .f32
  | .cfgCalibRange => .f32
  | .cfgIndexOffset => .f32
  | .isReady => .u 1
  | .indexFound => .u 1
  | .hallPolarityCalibrated => .u 1
  | .xPeriod => .f32
  | .xPolePairs => .s32
  | .xCircRange => .f32
  | .xSpiErrAlpha => .f32
  | .shadowCount => .s32
  | .countInCpr => .s32
  | .posEstimateCounts => .f32
  | .velEstimateCounts => .f32
  | .posCprCounts => .f32
  | .interpolation => .f32
  | .posCircular => .f32
  | .phase => .f32
  | .phaseVel => .f32
  | .pllKp => .f32
  | .pllKi => .f32
  | .timCntSample => .u 16
  | .hallState => .u 3
  | .sincosS => .f32
  | .sincosC => .f32
  | .posAbs => .u 14
  | .spiErrorRate => .f32
  | .status => .flags
  | .error => .u 8
  | .hwcnt => .u 16
  | .lastHallCnt => .s32
  | .cfgHallEdge _ => .f32
  | .hallcalAcc _ => .f32
  | .hallcalSeen _ => .u 32

/-- What the host may do with a register (R22, 45_system.md R232). -/
def Reg.hostClass (r : Reg) : HostClass :=
  match r with
  | .cfgMode => .rw
  | .cfgCpr => .rw
  | .cfgBandwidth => .rw
  | .cfgDirection => .cal
  | .cfgPhaseOffset => .cal
  | .cfgPhaseOffsetFloat => .cal
  | .cfgHallPolarity => .cal
  | .cfgFlags => .rw
  | .cfgCalibScanVel => .rw
  | .cfgCalibScanDistance => .rw
  | .cfgCalibRange => .rw
  | .cfgIndexOffset => .rw
  | .isReady => .cal
  | .indexFound => .cal
  | .hallPolarityCalibrated => .cal
  | .xPeriod => .rw
  | .xPolePairs => .rw
  | .xCircRange => .rw
  | .xSpiErrAlpha => .rw
  | .shadowCount => .ro
  | .countInCpr => .ro
  | .posEstimateCounts => .ro
  | .velEstimateCounts => .ro
  | .posCprCounts => .ro
  | .interpolation => .ro
  | .posCircular => .ro
  | .phase => .ro
  | .phaseVel => .ro
  | .pllKp => .ro
  | .pllKi => .ro
  | .timCntSample => .ro
  | .hallState => .ro
  | .sincosS => .ro
  | .sincosC => .ro
  | .posAbs => .ro
  | .spiErrorRate => .ro
  | .status => .ro
  | .error => .ro
  | .hwcnt => .ro
  | .lastHallCnt => .ro
  | .cfgHallEdge _ => .cal
  | .hallcalAcc _ => .ro
  | .hallcalSeen _ => .ro

/-- The spec's name of a register (R22), as a trace writes it (30_encoding.md R112). -/
def Reg.name (r : Reg) : String :=
  match r with
  | .cfgMode => "CFG_MODE"
  | .cfgCpr => "CFG_CPR"
  | .cfgBandwidth => "CFG_BANDWIDTH"
  | .cfgDirection => "CFG_DIRECTION"
  | .cfgPhaseOffset => "CFG_PHASE_OFFSET"
  | .cfgPhaseOffsetFloat => "CFG_PHASE_OFFSET_FLOAT"
  | .cfgHallPolarity => "CFG_HALL_POLARITY"
  | .cfgFlags => "CFG_FLAGS"
  | .cfgCalibScanVel => "CFG_CALIB_SCAN_VEL"
  | .cfgCalibScanDistance => "CFG_CALIB_SCAN_DISTANCE"
  | .cfgCalibRange => "CFG_CALIB_RANGE"
  | .cfgIndexOffset => "CFG_INDEX_OFFSET"
  | .isReady => "IS_READY"
  | .indexFound => "INDEX_FOUND"
  | .hallPolarityCalibrated => "HALL_POLARITY_CALIBRATED"
  | .xPeriod => "X_PERIOD"
  | .xPolePairs => "X_POLE_PAIRS"
  | .xCircRange => "X_CIRC_RANGE"
  | .xSpiErrAlpha => "X_SPI_ERR_ALPHA"
  | .shadowCount => "SHADOW_COUNT"
  | .countInCpr => "COUNT_IN_CPR"
  | .posEstimateCounts => "POS_ESTIMATE_COUNTS"
  | .velEstimateCounts => "VEL_ESTIMATE_COUNTS"
  | .posCprCounts => "POS_CPR_COUNTS"
  | .interpolation => "INTERPOLATION"
  | .posCircular => "POS_CIRCULAR"
  | .phase => "PHASE"
  | .phaseVel => "PHASE_VEL"
  | .pllKp => "PLL_KP"
  | .pllKi => "PLL_KI"
  | .timCntSample => "TIM_CNT_SAMPLE"
  | .hallState => "HALL_STATE"
  | .sincosS => "SINCOS_S"
  | .sincosC => "SINCOS_C"
  | .posAbs => "POS_ABS"
  | .spiErrorRate => "SPI_ERROR_RATE"
  | .status => "STATUS"
  | .error => "ERROR"
  | .hwcnt => "HWCNT"
  | .lastHallCnt => "LAST_HALL_CNT"
  | .cfgHallEdge k => "CFG_HALL_EDGE" ++ toString k.val
  | .hallcalAcc k => "HALLCAL_ACC" ++ toString k.val
  | .hallcalSeen k => "HALLCAL_SEEN" ++ toString k.val

end Sys2Proof
end

