-- ==== Sys2Proof/WellFormed.lean ====
section
/-! DEFINITION. The operand checks that need no state: the legal words that are REFUSED whatever the block holds
(30_encoding.md R108, 93_implementation_defined.md U7). -/

namespace Sys2Proof

/-- The values `CFG_DIRECTION` may be written with (20_memory.md R77, 45_system.md R231). -/
def legalDirection (v : Word) : Bool := decide (v.toInt = -1 ∨ v.toInt = 0 ∨ v.toInt = 1)

/-- The index names a register (10_state.md R22). -/
def readableIndex (idx : BitVec 8) : Bool := (Reg.ofIndex idx).isSome

/-- REG_WRITE may take this index and value (45_system.md R231). -/
def writableWith (idx : BitVec 8) (value : Word) : Bool :=
  match Reg.ofIndex idx with
  | none => false
  | some r => decide (r.hostClass ≠ .ro) && (decide (r ≠ .cfgDirection) || legalDirection value)

/-- An operation whose operands the spec admits. -/
def Instr.wellFormed (i : Instr) : Bool :=
  match i with
  | .regRead idx => readableIndex idx
  | .regWrite idx value => writableWith idx value
  | .sample => true
  | .update => true
  | .indexPulse => true
  | .spiDone _ _ => true
  | .countUp => true
  | .countDown => true
  | .setLinearCount _ => true
  | .setCircularCount _ _ => true
  | .updatePllGains => true
  | .raiseError _ => true
  | .clearErrors => true
  | .armIndex => true
  | .disarmIndex => true
  | .hallcalStart => true
  | .hallcalStop => true

end Sys2Proof
end

