-- ==== Sys2Proof/Machine/Ops.lean ====
section
/-! DEFINITION. The shared operations: the end of an operation, `raise Fault(K)`, the counters' writes, the register
space and the SPI buffers. -/

namespace Sys2Proof.Machine

/-- The end of an operation that gives out nothing but its outcome (00_scope.md R10, log 3). -/
def finish (r : OpResult) (s : State) : State := { s with out := Outputs.plain r }

/-- `raise Fault(K)` (60_exceptions.md R262): the bit of `ERROR` is set, both validity flags are cleared, `IS_READY` is
cleared by `READY_CLEAR_MASK`, and nothing else changes. The block's only exception entry (R270); nothing returns (R271). -/
def raiseFault (k : FaultKind) (s : State) : State :=
  { s with
    error := s.error ||| faultMask k
    status.posValid := false
    status.velValid := false
    isReady := readyAfterFault s.params k s.isReady }

/-- `raise Fault(K)` for every bit of a mask, in the order of the list (45_system.md R228). -/
def raiseAll (mask : BitVec 8) (ks : List FaultKind) (s : State) : State :=
  match ks with
  | [] => s
  | k :: rest => raiseAll mask rest (if mask.getLsbD (faultBit k) then raiseFault k s else s)

/-- The writes of SET_LINEAR_COUNT (41_tracker.md R152). -/
def writeLinear (n : Word) (s : State) : State :=
  { s with
    est.shadowCount := n
    est.posEstimate := f32OfWord n
    hwcnt := low16 n }

/-- `mod(n, CFG_CPR)` of SET_CIRCULAR_COUNT (41_tracker.md R154). -/
def circularCount (n : Int) (s : State) : Int := modPos n s.cfg.cpr.toInt

/-- `CFG_PHASE_OFFSET` after a rebase to `new` (41_tracker.md R154). -/
def shiftedOffset (new : Int) (s : State) : Word :=
  wrap32 (s.cfg.phaseOffset.toInt + (new - s.est.countInCpr.toInt))

/-- The writes of SET_CIRCULAR_COUNT (41_tracker.md R154). With `CIRC_REBASE_PLL` and a `cpr` above 2^24 the `f32` of R154
can round up to `cpr`, against the invariant of 10_state.md R51; the pseudo-code is followed (DEDUCED, log 31). -/
def writeCircular (n : Int) (updateOffset : Bool) (s : State) : State :=
  { s with
    cfg.phaseOffset := if updateOffset then shiftedOffset (circularCount n s) s else s.cfg.phaseOffset
    est.countInCpr := wrap32 (circularCount n s)
    est.posCpr := if s.params.circRebasePll then F32.ofInt (circularCount n s) else s.est.posCpr }

/-- `MemRead(SPIBUF_RX, 2)` (20_memory.md R72). -/
def readSpiRx (s : State) : BitVec 16 := s.spi.rx

/-- `MemWrite(SPIBUF_RX, 2, v)`, the arbiter's write (20_memory.md R72). -/
def writeSpiRx (v : BitVec 16) (s : State) : State := { s with spi.rx := v }

/-- Does a register hold a value that the spec or the host gave it (10_state.md R50, R55); where not, it holds the value that
log 8 names. -/
def holdsValue (r : Reg) (s : State) : Bool :=
  match r with
  | .cfgMode => s.written.mode
  | .cfgCpr => s.written.cpr
  | .cfgBandwidth => s.written.bandwidth
  | .cfgFlags => s.written.flags
  | .cfgCalibScanVel => s.written.calibScanVel
  | .cfgCalibScanDistance => s.written.calibScanDistance
  | .cfgCalibRange => s.written.calibRange
  | .cfgIndexOffset => s.written.indexOffset
  | .xPeriod => s.written.period
  | .xPolePairs => s.written.polePairs
  | .xCircRange => s.written.circRange
  | .xSpiErrAlpha => s.written.spiErrAlpha
  | .cfgDirection => true
  | .cfgPhaseOffset => true
  | .cfgPhaseOffsetFloat => true
  | .cfgHallEdge _ => true
  | .cfgHallPolarity => true
  | .isReady => true
  | .indexFound => true
  | .hallPolarityCalibrated => true
  | .shadowCount => true
  | .countInCpr => true
  | .posEstimateCounts => true
  | .velEstimateCounts => true
  | .posCprCounts => true
  | .interpolation => true
  | .posCircular => true
  | .phase => true
  | .phaseVel => true
  | .pllKp => true
  | .pllKi => true
  | .timCntSample => true
  | .hallState => true
  | .sincosS => true
  | .sincosC => true
  | .posAbs => true
  | .spiErrorRate => true
  | .status => true
  | .error => true
  | .hwcnt => true
  | .hallcalAcc _ => true
  | .hallcalSeen _ => true
  | .lastHallCnt => true

/-- The 32-bit content of a register (10_state.md R21, R22; 45_system.md R230): an `s32` in two's complement, an `f32` as
its pattern, a narrower one zero-extended. -/
def regContent (r : Reg) (s : State) : Word :=
  match r with
  | .cfgMode => s.cfg.mode
  | .cfgCpr => s.cfg.cpr
  | .cfgBandwidth => s.cfg.bandwidth.bits
  | .cfgDirection => s.cfg.direction
  | .cfgPhaseOffset => s.cfg.phaseOffset
  | .cfgPhaseOffsetFloat => s.cfg.phaseOffsetFloat.bits
  | .cfgHallEdge k => (s.cfg.hallEdge.get k).bits
  | .cfgHallPolarity => s.cfg.hallPolarity.setWidth 32
  | .cfgFlags => s.cfg.flags.toWord
  | .cfgCalibScanVel => s.cfg.calibScanVel.bits
  | .cfgCalibScanDistance => s.cfg.calibScanDistance.bits
  | .cfgCalibRange => s.cfg.calibRange.bits
  | .cfgIndexOffset => s.cfg.indexOffset.bits
  | .isReady => flagWord s.isReady
  | .indexFound => flagWord s.indexFound
  | .hallPolarityCalibrated => flagWord s.hallPolarityCalibrated
  | .xPeriod => s.plat.period.bits
  | .xPolePairs => s.plat.polePairs
  | .xCircRange => s.plat.circRange.bits
  | .xSpiErrAlpha => s.plat.spiErrAlpha.bits
  | .shadowCount => s.est.shadowCount
  | .countInCpr => s.est.countInCpr
  | .posEstimateCounts => s.est.posEstimate.bits
  | .velEstimateCounts => s.est.velEstimate.bits
  | .posCprCounts => s.est.posCpr.bits
  | .interpolation => s.est.interpolation.bits
  | .posCircular => s.est.posCircular.bits
  | .phase => s.est.phase.bits
  | .phaseVel => s.est.phaseVel.bits
  | .pllKp => s.est.kp.bits
  | .pllKi => s.est.ki.bits
  | .timCntSample => s.raw.timCntSample.setWidth 32
  | .hallState => s.raw.hallState.setWidth 32
  | .sincosS => s.raw.sincosS.bits
  | .sincosC => s.raw.sincosC.bits
  | .posAbs => s.spi.posAbs.setWidth 32
  | .spiErrorRate => s.spi.errorRate.bits
  | .status => s.status.toWord
  | .error => s.error.setWidth 32
  | .hwcnt => s.hwcnt.setWidth 32
  | .hallcalAcc k => (s.hallCal.acc.get k).bits
  | .hallcalSeen k => s.hallCal.seen.get k
  | .lastHallCnt => s.hallCal.lastHallCnt

/-- A free NaN pattern: its sign and payload are nobody's to know (93_implementation_defined.md U5, log 9). -/
def freeNan (draw : Nat) (idx : BitVec 8) (content : Word) : Word :=
  if (F32.mk (Config.nanBits draw idx content)).isNaN then Config.nanBits draw idx content else F32.nan.bits

/-- What REG_READ puts on `rdata` (45_system.md R230): the content, but for a NaN in an `f32` register, whose sign and
payload are free (42_pll.md R177, U5, log 9). -/
def regValue (r : Reg) (s : State) : Word :=
  if r.type = .f32 ∧ (F32.mk (regContent r s)).isNaN then freeNan s.draws r.index (regContent r s)
  else regContent r s

/-- `x[idx] <- value`, taken by the register's type (45_system.md R231): the host's writable registers; the others are
left as they are (class `ro`, refused by REG_WRITE before this). -/
def writeContent (r : Reg) (v : Word) (s : State) : State :=
  match r with
  | .cfgMode => { s with cfg.mode := v, written.mode := true }
  | .cfgCpr => { s with cfg.cpr := v, written.cpr := true }
  | .cfgBandwidth => { s with cfg.bandwidth := ⟨v⟩, written.bandwidth := true }
  | .cfgDirection => { s with cfg.direction := v }
  | .cfgPhaseOffset => { s with cfg.phaseOffset := v }
  | .cfgPhaseOffsetFloat => { s with cfg.phaseOffsetFloat := ⟨v⟩ }
  | .cfgHallEdge k => { s with cfg.hallEdge := s.cfg.hallEdge.set k ⟨v⟩ }
  | .cfgHallPolarity => { s with cfg.hallPolarity := v.setWidth 3 }
  | .cfgFlags => { s with cfg.flags := CfgFlags.ofWord v, written.flags := true }
  | .cfgCalibScanVel => { s with cfg.calibScanVel := ⟨v⟩, written.calibScanVel := true }
  | .cfgCalibScanDistance => { s with cfg.calibScanDistance := ⟨v⟩, written.calibScanDistance := true }
  | .cfgCalibRange => { s with cfg.calibRange := ⟨v⟩, written.calibRange := true }
  | .cfgIndexOffset => { s with cfg.indexOffset := ⟨v⟩, written.indexOffset := true }
  | .isReady => { s with isReady := v.getLsbD 0 }
  | .indexFound => { s with indexFound := v.getLsbD 0 }
  | .hallPolarityCalibrated => { s with hallPolarityCalibrated := v.getLsbD 0 }
  | .xPeriod => { s with plat.period := ⟨v⟩, written.period := true }
  | .xPolePairs => { s with plat.polePairs := v, written.polePairs := true }
  | .xCircRange => { s with plat.circRange := ⟨v⟩, written.circRange := true }
  | .xSpiErrAlpha => { s with plat.spiErrAlpha := ⟨v⟩, written.spiErrAlpha := true }
  | .shadowCount => s
  | .countInCpr => s
  | .posEstimateCounts => s
  | .velEstimateCounts => s
  | .posCprCounts => s
  | .interpolation => s
  | .posCircular => s
  | .phase => s
  | .phaseVel => s
  | .pllKp => s
  | .pllKi => s
  | .timCntSample => s
  | .hallState => s
  | .sincosS => s
  | .sincosC => s
  | .posAbs => s
  | .spiErrorRate => s
  | .status => s
  | .error => s
  | .hwcnt => s
  | .hallcalAcc _ => s
  | .hallcalSeen _ => s
  | .lastHallCnt => s

end Sys2Proof.Machine
end

