-- ==== Sys2Proof/Machine/Operands.lean ====
section
/-! DEFINITION. What an operation reads before it acts: the mode (30_encoding.md R110), the legality of the
configuration (10_state.md R38 to R47, R50) and the encoder model (42_pll.md R163 to R166). -/

namespace Sys2Proof.Machine

/-- The mode enumeration (30_encoding.md R110). -/
inductive Mode where
  | incremental
  | hall
  | sincos
  | abs (v : Nat)
  | unsupported
deriving DecidableEq, Repr

/-- `is_abs(m)`: `m[31:9] == 0 and m[8] == 1 and m[7:0] < N_ABS` (30_encoding.md R110). -/
def isAbs (nAbs : Nat) (m : Word) : Bool :=
  decide (m.toNat / 512 = 0) && decide (m.toNat / 256 % 2 = 1) && decide (m.toNat % 256 < nAbs)

/-- The mode that a content of `CFG_MODE` names (30_encoding.md R110). -/
def modeOf (nAbs : Nat) (m : Word) : Mode :=
  if m = 0 then .incremental
  else if m = 1 then .hall
  else if m = 2 then .sincos
  else if isAbs nAbs m then .abs (m.toNat % 256)
  else .unsupported

/-- The mode in force. -/
def State.mode (s : State) : Mode := modeOf s.params.nAbs s.cfg.mode

/-- The mode-dependent conditions on `cpr` (10_state.md R39). -/
def cprFits (m : Mode) (cpr : Int) : Bool :=
  match m with
  | .incremental => decide (cpr % 2 = 0)
  | .hall => decide (cpr = 6)
  | .sincos => true
  | .abs _ => decide (cpr % 2 = 0) && decide (16384 ≤ cpr)
  | .unsupported => true

/-- A finite binary32 number above zero. -/
def positiveFinite (x : F32) : Bool := x.isFinite && F32.zero.lt x

/-- `CFG_CPR` positive, and fit for the current mode once the host has written a mode (10_state.md R39, R50, log 11). -/
def cprOk (s : State) : Bool :=
  decide (0 < s.cfg.cpr.toInt) && (!s.written.mode || cprFits s.mode s.cfg.cpr.toInt)

/-- `CFG_BANDWIDTH` finite and not negative (10_state.md R40). -/
def bandwidthOk (s : State) : Bool := s.cfg.bandwidth.isFinite && F32.zero.le s.cfg.bandwidth

/-- `X_PERIOD` finite and positive (10_state.md R47). -/
def periodOk (s : State) : Bool := positiveFinite s.plat.period

/-- `X_POLE_PAIRS` at least 1 (10_state.md R47). -/
def polePairsOk (s : State) : Bool := decide (1 ≤ s.plat.polePairs.toInt)

/-- `X_CIRC_RANGE` finite and positive (10_state.md R47). -/
def circRangeOk (s : State) : Bool := positiveFinite s.plat.circRange

/-- `X_SPI_ERR_ALPHA` between 0 and 1 (10_state.md R47). -/
def alphaOk (s : State) : Bool := F32.zero.lt s.plat.spiErrAlpha && s.plat.spiErrAlpha.lt F32.one

/-- `X_SPI_ERR_ALPHA` is read in an ABS mode only (44_abs_spi.md R205, 70_reset_and_hazards.md R301). -/
def alphaOkFor (m : Mode) (s : State) : Bool :=
  match m with
  | .abs _ => alphaOk s
  | .incremental => true
  | .hall => true
  | .sincos => true
  | .unsupported => true

/-- `cfg_ok` of UPDATE in a supported mode (10_state.md R50, log 10). -/
def updateCfgOk (s : State) : Bool :=
  decide (0 < s.cfg.cpr.toInt) && cprFits s.mode s.cfg.cpr.toInt && legalDirection s.cfg.direction && periodOk s
    && polePairsOk s && circRangeOk s && alphaOkFor s.mode s

/-- Why UPDATE is REFUSED before its first step, if it is: an illegal value in a register it reads (41_tracker.md R140,
10_state.md R50). An unsupported mode does not make `cfg_ok` false (R50): nothing but `CFG_MODE` is then read (log 10). -/
def updateGate (s : State) : Option Refusal :=
  if s.mode = .unsupported then none
  else if updateCfgOk s then none
  else some .invalidConfig

/-- Why UPDATE_PLL_GAINS is REFUSED, if it is (42_pll.md R160). -/
def gainsGate (s : State) : Option Refusal :=
  if bandwidthOk s && periodOk s then none else some .invalidConfig

/-- Why SET_CIRCULAR_COUNT is REFUSED, if it is (41_tracker.md R154, 10_state.md R50, log 11). -/
def circularGate (s : State) : Option Refusal :=
  if cprOk s then none else some .invalidConfig

/-- Why INDEX_PULSE is REFUSED before it looks at anything else, if it is (45_system.md R220, logs 11 and 20). -/
def indexGate (s : State) : Option Refusal :=
  if cprOk s then none else some .invalidConfig

/-- Where bin `i` of the Hall sensor ends (42_pll.md R166). -/
def hallBinEnd (edge : Six F32) (i : Nat) : F32 :=
  match i with
  | 0 => edge.e1
  | 1 => edge.e2
  | 2 => edge.e3
  | 3 => edge.e4
  | 4 => edge.e5
  | _ => edge.e0.add F32.six

/-- Where bin `i` of the Hall sensor begins (42_pll.md R166). -/
def hallBinStart (edge : Six F32) (i : Nat) : F32 :=
  match i with
  | 0 => edge.e0
  | 1 => edge.e1
  | 2 => edge.e2
  | 3 => edge.e3
  | 4 => edge.e4
  | _ => edge.e5

/-- The default `hall_model` (42_pll.md R166) at a position `p` whose floor is `c`: the floor, or one off it where the
position inside the electrical revolution lies outside the floor's bin. -/
def hallModelDefault (p : F32) (edge : Six F32) (c : Int) : Int :=
  if (p.sub (F32.ofInt (c - modPos c 6))).lt (hallBinStart edge (modPos c 6).toNat) then c - 1
  else if (p.sub (F32.ofInt (c - modPos c 6))).ge (hallBinEnd edge (modPos c 6).toNat) then c + 1
  else c

/-- `a` brought into `[-1, 1]`. -/
def clampOne (a : Int) : Int := max (-1) (min 1 a)

/-- Any other `hall_model`: constrained only by R166's two conditions, within one of the floor and equal to it under the
default table (log 5). -/
def hallModelOther (p : F32) (edge : Six F32) (c : Int) : Int :=
  if edge = defaultHallEdges then c else c + clampOne (Config.hallModelSlack p edge)

/-- `hall_model` at a position whose floor is `c` (42_pll.md R163, R166). -/
def hallModel (kind : HallModelKind) (p : F32) (edge : Six F32) (c : Int) : Int :=
  match kind with
  | .default => hallModelDefault p edge c
  | .other => hallModelOther p edge c

/-- The encoder model (42_pll.md R163, R164): the integer count a perfect sensor would report at `p`; nothing where
`floor_int` is REFUSED (00_scope.md R14). That this holds for a `hall_model` other than the default too, which R6 calls a
total function, is the model's reading of R164 and R166 (DEDUCED, log 30). -/
def encoderModel (s : State) (p : F32) : Option Int :=
  match p.floorInt with
  | none => none
  | some c => some (if s.mode = .hall then hallModel s.params.hallModel p s.cfg.hallEdge c else c)

/-- `sincos_count(s, c, cpr)` (41_tracker.md R145): a parameter function with its result in `[0, cpr)` (log 5). -/
def sincosCount (sv cv : F32) (cpr : Int) : Int := modPos (Config.sincosRaw sv cv cpr) cpr

end Sys2Proof.Machine
end

