-- ==== Sys2Proof/Machine/Sampler.lean ====
section
/-! DEFINITION. The Sampler: SAMPLE (40_sampler.md). -/

namespace Sys2Proof.Machine

/-- SAMPLE in `MODE_INCREMENTAL` (40_sampler.md R131). -/
def sampleIncremental (s : State) : State := finish .ok { s with raw.timCntSample := s.hwcnt }

/-- SAMPLE in `MODE_SINCOS` (40_sampler.md R133). -/
def sampleSincos (s : State) : State :=
  finish .ok
    { s with
      raw.sincosS := s.ports.adcSin.sub F32.half
      raw.sincosC := s.ports.adcCos.sub F32.half }

/-- The event that SAMPLE emits in an ABS mode: one 16-bit word out of `SPIBUF_TX`, one frame into `SPIBUF_RX`
(40_sampler.md R134, 44_abs_spi.md R201). -/
def spiRequestOf (s : State) : SpiRequest := { tx := .spibufTx, rx := .spibufRx, words := 1, sent := s.spi.tx }

/-- SAMPLE in `MODE_ABS(v)` (40_sampler.md R134): nothing issued while a transaction is out; else a request, in flight
where the arbiter accepts it. -/
def sampleAbs (s : State) : State :=
  if s.status.spiInflight then finish .ok s
  else
    { s with
      status.spiInflight := s.ports.spiAccept
      out := { Outputs.plain .ok with spiRequest := some (spiRequestOf s) } }

/-- SAMPLE by mode (40_sampler.md R130, R132, R135). -/
def sampleIn (m : Mode) (s : State) : State :=
  match m with
  | .incremental => sampleIncremental s
  | .hall => finish .ok s
  | .sincos => sampleSincos s
  | .abs _ => sampleAbs s
  | .unsupported => finish .fail (raiseFault .unsupportedMode s)

/-- SAMPLE (40_sampler.md R130), in the mode that `CFG_MODE` names; before the host has written one, that is the model's
value at reset (log 8). -/
def execSample (s : State) : Host.Outcome State Fault Refusal := .next (sampleIn s.mode s)

end Sys2Proof.Machine
end

