-- ==== Sys2Proof/Machine/System.lean ====
section
/-! DEFINITION. The index pulse, the fault interface, the arming of the index interrupt and the host's register access
(45_system.md). -/

namespace Sys2Proof.Machine

/-- The optional linear offset of the index callback (45_system.md R221). -/
def linearOffset (s : State) : Except Refusal State :=
  if s.cfg.flags.useIndexOffset then
    match (s.cfg.indexOffset.mul (f32OfWord s.cfg.cpr)).truncInt with
    | none => .error .floatToInt
    | some n => .ok (writeLinear (wrap32 n) s)
  else .ok s

/-- Readiness at the index pulse (45_system.md R222). -/
def indexReadiness (s : State) : State :=
  { s with
    isReady :=
      if s.cfg.flags.preCalibrated then (if s.error = 0 then true else s.isReady)
      else if s.params.indexUpdateOffset then s.isReady
      else false }

/-- The pulse is noted and the interrupt, one-shot, disarmed (45_system.md R220). -/
def indexSeen (s : State) : State := { s with indexFound := true, status.indexArmed := false }

/-- INDEX_PULSE (45_system.md R220 to R223). -/
def execIndexPulse (s : State) : Host.Outcome State Fault Refusal :=
  match indexGate s with
  | some r => .refused r
  | none =>
    if s.status.indexArmed && s.cfg.flags.useIndex then
      match linearOffset (writeCircular 0 s.params.indexUpdateOffset s) with
      | .error r => .refused r
      | .ok t => .next (finish .ok (indexSeen (indexReadiness t)))
    else .next (finish .ok s)

/-- ARM_INDEX (45_system.md R224): FAIL, with no fault bit, where the GPIO subscribe fails (60_exceptions.md R265). -/
def execArmIndex (s : State) : Host.Outcome State Fault Refusal :=
  .next
    { s with
      status.indexArmed := s.status.indexArmed || s.ports.subscribeOk
      out :=
        { Outputs.plain (if s.ports.subscribeOk then .ok else .fail) with
          gpio := some (.subscribe s.params.indexEdgePolarity s.params.indexPull) } }

/-- DISARM_INDEX (45_system.md R225). -/
def execDisarmIndex (s : State) : Host.Outcome State Fault Refusal :=
  .next
    { s with
      status.indexArmed := false
      out := { Outputs.plain .ok with gpio := some .unsubscribe } }

/-- RAISE_ERROR (45_system.md R228). -/
def execRaiseError (mask : BitVec 8) (s : State) : Host.Outcome State Fault Refusal :=
  .next (finish .ok (raiseAll mask faultKinds s))

/-- CLEAR_ERRORS (45_system.md R229). -/
def execClearErrors (s : State) : Host.Outcome State Fault Refusal :=
  .next (finish .ok { s with error := 0 })

/-- REG_READ (45_system.md R230). A register that the host has not written yet reads as its value at reset, the model's own
where the spec gives none (log 8). -/
def execRegRead (idx : BitVec 8) (s : State) : Host.Outcome State Fault Refusal :=
  match Reg.ofIndex idx with
  | none => .refused .reservedIndex
  | some r => .next { s with out := { Outputs.plain .ok with rdata := some (regValue r s) } }

/-- REG_WRITE (45_system.md R231, R232). -/
def execRegWrite (idx : BitVec 8) (value : BitVec 32) (s : State) : Host.Outcome State Fault Refusal :=
  match Reg.ofIndex idx with
  | none => .refused .reservedIndex
  | some r =>
    if r.hostClass = .ro then .refused .readOnlyRegister
    else if r = .cfgDirection ∧ legalDirection value = false then .refused .illegalDirection
    else .next (finish .ok (writeContent r value s))

end Sys2Proof.Machine
end

