-- ==== Sys2Proof/Machine/Pll.lean ====
section
/-! DEFINITION. The PLL Estimator: UPDATE_PLL_GAINS and steps 3 to 7 of UPDATE (42_pll.md). Every formula is evaluated in
the order the rule writes it, one rounding per operator. -/

namespace Sys2Proof.Machine

/-- `kp` (42_pll.md R160). -/
def gainKp (s : State) : F32 := F32.two.mul s.cfg.bandwidth

/-- `ki` (42_pll.md R160). -/
def gainKi (s : State) : F32 := F32.quarter.mul ((gainKp s).mul (gainKp s))

/-- The gains written (42_pll.md R160). -/
def writeGains (s : State) : State := { s with est.kp := gainKp s, est.ki := gainKi s }

/-- The unstable-gain condition `X_PERIOD * kp >= 1.0` (42_pll.md R160). -/
def unstableGain (s : State) : Bool := (s.plat.period.mul (gainKp s)).ge F32.one

/-- UPDATE_PLL_GAINS (42_pll.md R160): the gains are written, then tested. R160 adds that a `kp` whose square overflows also
fails the test; with a legal `X_PERIOD` below about 2^-64 it does not, and the pseudo-code is followed (DEDUCED, log 29). -/
def execUpdatePllGains (s : State) : Host.Outcome State Fault Refusal :=
  match gainsGate s with
  | some r => .refused r
  | none =>
    if unstableGain s then .next (finish .fail (raiseFault .unstableGain (writeGains s)))
    else .next (finish .ok (writeGains s))

/-- `cprf <- f32(CFG_CPR)` (42_pll.md, the locals). -/
def cprFloat (s : State) : F32 := f32OfWord s.cfg.cpr

/-- Predict (42_pll.md R162): both positions move by `T * VEL_ESTIMATE_COUNTS`. -/
def predict (t : F32) (e : Est) : Est :=
  { e with
    posEstimate := e.posEstimate.add (t.mul e.velEstimate)
    posCpr := e.posCpr.add (t.mul e.velEstimate) }

/-- `e` of the phase detector (42_pll.md R165), with `m` the modelled linear count. -/
def linearError (e : Est) (m : Int) : F32 := f32OfWord (wrap32 (e.shadowCount.toInt - m))

/-- `ec` of the phase detector (42_pll.md R165), with `m` the modelled circular count. -/
def wrappedError (cprf : F32) (e : Est) (m : Int) : Option F32 := (F32.ofInt (e.countInCpr.toInt - m)).wrapPm cprf

/-- Correct (42_pll.md R167) and wrap the cpr-local position (R168). -/
def correct (t cprf err errw : F32) (e : Est) : Est :=
  { e with
    posEstimate := e.posEstimate.add ((t.mul e.kp).mul err)
    posCpr := (e.posCpr.add ((t.mul e.kp).mul errw)).fmodPos cprf
    velEstimate := e.velEstimate.add ((t.mul e.ki).mul errw) }

/-- Does the velocity snap to zero (42_pll.md R169). -/
def snaps (t : F32) (e : Est) : Bool := e.velEstimate.abs.lt ((F32.half.mul t).mul e.ki)

/-- The velocity after the snap (42_pll.md R169). -/
def snapVelocity (t : F32) (e : Est) : Est :=
  { e with velEstimate := if snaps t e then F32.zero else e.velEstimate }

/-- The circular position (42_pll.md R170), with `last` the cpr-local position UPDATE began with. -/
def circularPosition (cprf range last : F32) (e : Est) : Option F32 :=
  match ((e.posCpr.sub last).div cprf).wrapPm F32.one with
  | none => none
  | some frac => some ((e.posCircular.add frac).fmodPos range)

/-- `x` brought into `[0, 1]`; a NaN gives 0.0 (42_pll.md R171). -/
def clampUnit (x : F32) : F32 := if !x.ge F32.zero then F32.zero else if x.gt F32.one then F32.one else x

/-- The interpolation (42_pll.md R171): frozen, reset by the delta's sign, or integrated. -/
def interpolate (t : F32) (frozen : Bool) (delta : Int) (e : Est) : F32 :=
  if frozen then F32.half
  else if 0 < delta then F32.zero
  else if delta < 0 then F32.one
  else clampUnit (e.interpolation.add (t.mul e.velEstimate))

/-- Steps 4 and 5 of UPDATE (42_pll.md R170, R171) on the registers after the correction `e`; the snap (R169) comes
first. -/
def observe (t cprf range last : F32) (enable : Bool) (delta : Int) (e : Est) : Option Est :=
  match circularPosition cprf range last (snapVelocity t e) with
  | none => none
  | some pc =>
    some
      { snapVelocity t e with
        posCircular := pc
        interpolation := interpolate t (snaps t e || !enable) delta (snapVelocity t e) }

/-- The modelled linear and circular counts after the prediction (42_pll.md R163, R165). -/
def modelledCounts (s : State) : Option (Int × Int) :=
  match encoderModel s (predict s.plat.period s.est).posEstimate with
  | none => none
  | some m =>
    match encoderModel s (predict s.plat.period s.est).posCpr with
    | none => none
    | some mc => some (m, mc)

/-- Steps 3 to 5 of UPDATE once both modelled counts are known (42_pll.md R165 to R171). -/
def track (delta m mc : Int) (s : State) : Option Est :=
  match wrappedError (cprFloat s) (predict s.plat.period s.est) mc with
  | none => none
  | some ec =>
    observe s.plat.period (cprFloat s) s.plat.circRange s.est.posCpr s.cfg.flags.enablePhaseInterpolation delta
      (correct s.plat.period (cprFloat s) (linearError (predict s.plat.period s.est) m) ec
        (predict s.plat.period s.est))

/-- Steps 3 to 5 of UPDATE (42_pll.md R162 to R171). -/
def estimate (delta : Int) (s : State) : Except Refusal State :=
  match modelledCounts s with
  | none => .error .floatToInt
  | some c =>
    match track delta c.1 c.2 s with
    | none => .error .notFinite
    | some e => .ok { s with est := e }

/-- `erpc`, electrical radians per count (42_pll.md R172). -/
def radiansPerCount (s : State) : F32 := ((f32OfWord s.plat.polePairs).mul F32.twoPi).div (cprFloat s)

/-- `corr`, the offset-corrected count (42_pll.md R173). -/
def correctedCount (s : State) : F32 :=
  f32OfWord (wrap32 (s.est.countInCpr.toInt - s.cfg.phaseOffset.toInt))

/-- `ph`, the raw phase (42_pll.md R173). -/
def rawPhase (s : State) : F32 :=
  ((radiansPerCount s).mul (((correctedCount s).add s.est.interpolation).sub s.cfg.phaseOffsetFloat)).mul
    (f32OfWord s.cfg.direction)

/-- `pv`, the phase velocity (42_pll.md R175). -/
def rawPhaseVel (s : State) : F32 :=
  (((F32.twoPi.mul s.est.velEstimate).mul (f32OfWord s.plat.polePairs)).div (cprFloat s)).mul
    (f32OfWord s.cfg.direction)

/-- Step 6 of UPDATE (42_pll.md R174): the outputs move only while `IS_READY = 1`. -/
def emitPhase (s : State) : Except Refusal State :=
  if s.isReady then
    match (rawPhase s).wrapPm F32.twoPi with
    | none => .error .notFinite
    | some ph => .ok { s with est.phase := ph, est.phaseVel := rawPhaseVel s }
  else .ok s

end Sys2Proof.Machine
end

