-- ==== Sys2Proof/Machine/Hall.lean ====
section
/-! DEFINITION. The Hall Decoder: step 1 of UPDATE in `MODE_HALL` (43_hall.md), and the switch of the edge sampling,
HALLCAL_START and HALLCAL_STOP (45_system.md R226, R227). -/

namespace Sys2Proof.Machine

/-- What step 1 of UPDATE gives (41_tracker.md R140, R142): a delta with the latched value if there is one, an early
exit with FAIL (R147), or no meaning. -/
inductive Delta where
  | moved (delta : Int) (latch : Option Word) (s : State)
  | failed (s : State)
  | refused (r : Refusal)
deriving DecidableEq, Repr

/-- The Hall lookup table (43_hall.md R191): the sequence count of a corrected state, nothing for 0 and 7. -/
def hallCount (b : BitVec 3) : Option (Fin 6) :=
  match b.toNat with
  | 1 => some 0
  | 3 => some 1
  | 2 => some 2
  | 6 => some 3
  | 4 => some 4
  | 5 => some 5
  | _ => none

/-- `HALL_STATE <- hall_snapshot` (43_hall.md R190). -/
def loadHall (s : State) : State := { s with raw.hallState := s.ports.hallSnapshot }

/-- The Hall state after the polarity mask (43_hall.md R190). -/
def correctedHall (s : State) : BitVec 3 := s.raw.hallState ^^^ s.cfg.hallPolarity

/-- Which edge a transition from sequence count `last` to `h` crosses (43_hall.md R194). -/
inductive EdgeCross where
  | crossed (k : Fin 6)
  | noEdge
  | ambiguous
deriving DecidableEq, Repr

/-- `d <- mod(h - LAST_HALL_CNT, 6)` and the slot (43_hall.md R194): up into `h` crosses edge `h`, down out of `last`
crosses edge `last`. -/
def edgeCross (last : Int) (h : Fin 6) : EdgeCross :=
  if modPos (h.val - last) 6 = 1 then .crossed h
  else if modPos (h.val - last) 6 = 5 then .crossed (Fin.ofNat 6 last.toNat)
  else if modPos (h.val - last) 6 = 0 then .noEdge
  else .ambiguous

/-- The running circular mean after one more sample (43_hall.md R194): nothing where a value that is not finite reaches
`wrap_pm` (42_pll.md R177). -/
def circularMean (n : Nat) (mean sample : F32) : Option F32 :=
  if n = 0 then sample.wrapPm F32.twoPi
  else
    match (sample.sub mean).wrapPm F32.twoPi with
    | none => none
    | some dd => (mean.add (dd.div (F32.ofInt (n + 1)))).wrapPm F32.twoPi

/-- The scratch registers after a sample in slot `k` (43_hall.md R194). -/
def averageEdge (k : Fin 6) (phase : F32) (c : HallCal) : Option HallCal :=
  match circularMean (c.seen.get k).toNat (c.acc.get k) phase with
  | none => none
  | some m => some { c with acc := c.acc.set k m, seen := c.seen.set k (satSucc (c.seen.get k)) }

/-- Edge sampling for the Hall phase calibration (43_hall.md R194), with the ambiguous transition's exit (R195). The
delta of a tick that goes on is formed after it, by `hallDelta`. -/
inductive EdgeSample where
  | goOn (s : State)
  | ambiguous (s : State)
  | refused (r : Refusal)
deriving DecidableEq, Repr

/-- `LAST_HALL_CNT <- h` (43_hall.md R194). -/
def recordHall (h : Fin 6) (s : State) : State := { s with hallCal.lastHallCnt := BitVec.ofNat 32 h.val }

/-- The ambiguous transition (43_hall.md R195): sampling stops and the illegal-Hall-state fault is raised. -/
def ambiguousTransition (s : State) : State :=
  raiseFault .illegalHallState { s with status.calibrateHallPhase := false }

/-- One sample while `calibrate_hall_phase = 1` (43_hall.md R194, R195). -/
def sampleEdge (h : Fin 6) (s : State) : EdgeSample :=
  if s.hallCal.lastHallCnt.toInt < 0 then .goOn (recordHall h s)
  else
    match edgeCross s.hallCal.lastHallCnt.toInt h with
    | .ambiguous => .ambiguous (ambiguousTransition s)
    | .noEdge => .goOn (recordHall h s)
    | .crossed k =>
      if s.ports.olPhaseValid then
        match averageEdge k s.ports.olPhase s.hallCal with
        | none => .refused .notFinite
        | some c => .goOn (recordHall h { s with hallCal := c })
      else .goOn (recordHall h s)

/-- The Hall delta and its latched value (43_hall.md R193). -/
def hallDelta (h : Fin 6) (s : State) : Delta :=
  .moved (centered (h.val - s.est.countInCpr.toInt) 6) (some (BitVec.ofNat 32 h.val)) s

/-- A legal Hall state (43_hall.md): the edge sampling if asked (R194), then the delta (R193). -/
def legalHall (h : Fin 6) (s : State) : Delta :=
  if s.status.calibrateHallPhase then
    match sampleEdge h s with
    | .goOn t => hallDelta h t
    | .ambiguous t => .failed t
    | .refused r => .refused r
  else hallDelta h s

/-- An illegal Hall state (43_hall.md R192). -/
def illegalHall (s : State) : Delta :=
  if s.cfg.flags.ignoreIllegalHallState then .moved 0 none s
  else .failed (raiseFault .illegalHallState s)

/-- Step 1 of UPDATE in `MODE_HALL` (43_hall.md R190 to R195, 41_tracker.md R144). -/
def hallStep (s : State) : Delta :=
  match hallCount (correctedHall (loadHall s)) with
  | none => illegalHall (loadHall s)
  | some h => legalHall h (loadHall s)

/-- HALLCAL_START (45_system.md R226). -/
def execHallcalStart (s : State) : Host.Outcome State Fault Refusal :=
  .next (finish .ok
    { s with
      hallCal := { acc := Six.all F32.zero, seen := Six.all 0, lastHallCnt := 0xFFFFFFFF }
      status.calibrateHallPhase := true })

/-- HALLCAL_STOP (45_system.md R227). -/
def execHallcalStop (s : State) : Host.Outcome State Fault Refusal :=
  .next (finish .ok { s with status.calibrateHallPhase := false })

end Sys2Proof.Machine
end

