-- ==== Sys2Proof/Machine/AbsSpi.lean ====
section
/-! DEFINITION. The Absolute-SPI Protocol: SPI_DONE, and step 1 of UPDATE in an ABS mode (44_abs_spi.md). -/

namespace Sys2Proof.Machine

/-- Decode and latch (44_abs_spi.md R203) with a frame decoder: a rejected frame is dropped. -/
def latchFrame (dec : Nat → BitVec 16 → Option (BitVec 14)) (s : State) : State :=
  match dec (s.cfg.mode.toNat % 256) (readSpiRx s) with
  | none => s
  | some p => { s with spi.posAbs := p, status.absSpiPosUpdated := true }

/-- The completion's first two writes (44_abs_spi.md R202): the receive buffer, and the buffers' return to the block. -/
def releaseSpi (frame : BitVec 16) (s : State) : State :=
  { writeSpiRx frame s with status.spiInflight := false }

/-- SPI_DONE over any family of frame decoders (44_abs_spi.md R202, R203). -/
def spiCompletion (dec : Nat → BitVec 16 → Option (BitVec 14)) (ok : Bool) (frame : BitVec 16) (s : State) :
    Host.Outcome State Fault Refusal :=
  if !s.status.spiInflight then .refused .nothingInFlight
  else if !ok then .next (finish .ok (releaseSpi frame s))
  else if isAbs s.params.nAbs s.cfg.mode then .next (finish .ok (latchFrame dec (releaseSpi frame s)))
  else .next (finish .ok (releaseSpi frame s))

/-- SPI_DONE (44_abs_spi.md R202), with the implementation's decoders (R204, log 5). -/
def execSpiDone (ok : Bool) (frame : BitVec 16) (s : State) : Host.Outcome State Fault Refusal :=
  spiCompletion Config.absDecode ok frame s

/-- The smoothed rate after a tick whose input is `x`: 1.0 for a miss, 0.0 for a hit (44_abs_spi.md R205). -/
def smoothRate (alpha rate x : F32) : F32 := rate.add (alpha.mul (x.sub rate))

/-- A miss (44_abs_spi.md R205): the rate rises. -/
def countMiss (s : State) : State :=
  { s with spi.errorRate := smoothRate s.plat.spiErrAlpha s.spi.errorRate F32.one }

/-- A hit (44_abs_spi.md R205): the rate falls and the latched value is consumed. -/
def countHit (s : State) : State :=
  { s with
    spi.errorRate := smoothRate s.plat.spiErrAlpha s.spi.errorRate F32.zero
    status.absSpiPosUpdated := false }

/-- The ABS delta and its latched value (44_abs_spi.md R206). -/
def absDelta (s : State) : Delta :=
  .moved (centered (s.spi.posAbs.toNat - s.est.countInCpr.toInt) s.cfg.cpr.toInt) (some (s.spi.posAbs.setWidth 32)) s

/-- Step 1 of UPDATE in an ABS mode (44_abs_spi.md R205, R206; 41_tracker.md R146). -/
def absStep (s : State) : Delta :=
  if s.status.absSpiPosUpdated then absDelta (countHit s)
  else if (countMiss s).spi.errorRate.gt F32.fivePercent then .failed (raiseFault .absSpiComFail (countMiss s))
  else absDelta (countMiss s)

end Sys2Proof.Machine
end

