-- ==== Sys2Proof/Machine/Tracker.lean ====
section
/-! DEFINITION. The Position Tracker: the per-mode delta, its application to the two counters, and the operations that
set and step the counters (41_tracker.md, 45_system.md R236, R237). -/

namespace Sys2Proof.Machine

/-- The incremental delta (41_tracker.md R143): the 16-bit sign-extended difference of the sample and the low half of
`SHADOW_COUNT`. -/
def incrementalDelta (s : State) : Int :=
  sext16 (s.raw.timCntSample.toNat - (low16 s.est.shadowCount).toNat)

/-- The delta towards a count `c` (41_tracker.md R145). -/
def deltaTowards (c : Int) (s : State) : Int := centered (c - s.est.countInCpr.toInt) s.cfg.cpr.toInt

/-- The sin/cos delta (41_tracker.md R145). -/
def sincosDelta (s : State) : Int :=
  deltaTowards (sincosCount s.raw.sincosS s.raw.sincosC s.cfg.cpr.toInt) s

/-- Step 1 of UPDATE (41_tracker.md R142), with the unsupported mode's exit (R141). -/
def stepOne (s : State) : Delta :=
  match s.mode with
  | .incremental => .moved (incrementalDelta s) none s
  | .hall => hallStep s
  | .sincos => .moved (sincosDelta s) none s
  | .abs _ => absStep s
  | .unsupported => .failed (raiseFault .unsupportedMode s)

/-- `COUNT_IN_CPR` after a delta, forced to the latched value where there is one (41_tracker.md R148, R149). -/
def nextCount (delta : Int) (latch : Option Word) (s : State) : Word :=
  match latch with
  | some a => a
  | none => wrap32 (modPos (s.est.countInCpr.toInt + delta) s.cfg.cpr.toInt)

/-- Step 2 of UPDATE (41_tracker.md R148, R149). -/
def applyDelta (delta : Int) (latch : Option Word) (s : State) : State :=
  { s with
    est.shadowCount := wrap32 (s.est.shadowCount.toInt + delta)
    est.countInCpr := nextCount delta latch s }

/-- SET_LINEAR_COUNT (41_tracker.md R152). -/
def execSetLinearCount (n : BitVec 32) (s : State) : Host.Outcome State Fault Refusal :=
  .next (finish .ok (writeLinear n s))

/-- SET_CIRCULAR_COUNT (41_tracker.md R154). -/
def execSetCircularCount (n : BitVec 32) (updateOffset : Bool) (s : State) : Host.Outcome State Fault Refusal :=
  match circularGate s with
  | some r => .refused r
  | none => .next (finish .ok (writeCircular n.toInt updateOffset s))

/-- COUNT_UP (45_system.md R236). -/
def execCountUp (s : State) : Host.Outcome State Fault Refusal :=
  .next (finish .ok { s with hwcnt := counterStep s.hwcnt 1 })

/-- COUNT_DOWN (45_system.md R237). -/
def execCountDown (s : State) : Host.Outcome State Fault Refusal :=
  .next (finish .ok { s with hwcnt := counterStep s.hwcnt (-1) })

end Sys2Proof.Machine
end

