-- ==== Sys2Proof/Machine/Update.lean ====
section
/-! DEFINITION. UPDATE as a whole: the order of its steps and its early exits (41_tracker.md R140, R147). -/

namespace Sys2Proof.Machine

/-- Steps 3 to 7 of UPDATE after the counters have moved (41_tracker.md R140). -/
def runObserver (delta : Int) (s : State) : Host.Outcome State Fault Refusal :=
  match estimate delta s with
  | .error r => .refused r
  | .ok t =>
    match emitPhase t with
    | .error r => .refused r
    | .ok u => .next (finish .ok (validityFlags u))

/-- UPDATE (41_tracker.md R140): an early exit of step 1 leaves every register that its own rule does not write (R147). -/
def execUpdate (s : State) : Host.Outcome State Fault Refusal :=
  match updateGate s with
  | some r => .refused r
  | none =>
    match stepOne s with
    | .refused r => .refused r
    | .failed t => .next (finish .fail t)
    | .moved delta latch t => runObserver delta (applyDelta delta latch t)

end Sys2Proof.Machine
end

