-- ==== Sys2Proof/Machine/Dispatch.lean ====
section
/-! DEFINITION. The dispatch: one arm per operation, each one call of its meaning. -/

namespace Sys2Proof.Machine

def exec (i : Instr) (s : State) : Host.Outcome State Fault Refusal :=
  match i with
  | .sample => Sys2Proof.Machine.execSample s
  | .update => Sys2Proof.Machine.execUpdate s
  | .indexPulse => Sys2Proof.Machine.execIndexPulse s
  | .spiDone ok frame => Sys2Proof.Machine.execSpiDone ok frame s
  | .countUp => Sys2Proof.Machine.execCountUp s
  | .countDown => Sys2Proof.Machine.execCountDown s
  | .setLinearCount n => Sys2Proof.Machine.execSetLinearCount n s
  | .setCircularCount n updateOffset => Sys2Proof.Machine.execSetCircularCount n updateOffset s
  | .updatePllGains => Sys2Proof.Machine.execUpdatePllGains s
  | .raiseError mask => Sys2Proof.Machine.execRaiseError mask s
  | .clearErrors => Sys2Proof.Machine.execClearErrors s
  | .armIndex => Sys2Proof.Machine.execArmIndex s
  | .disarmIndex => Sys2Proof.Machine.execDisarmIndex s
  | .hallcalStart => Sys2Proof.Machine.execHallcalStart s
  | .hallcalStop => Sys2Proof.Machine.execHallcalStop s
  | .regRead idx => Sys2Proof.Machine.execRegRead idx s
  | .regWrite idx value => Sys2Proof.Machine.execRegWrite idx value s

end Sys2Proof.Machine
end

