-- ==== Sys2Proof/Decode.lean ====
section
/-! DEFINITION. The operation word (30_encoding.md R100 to R107): fields, codes, formats, the decoder, the encoder and
the match and mask table of R105. -/

namespace Sys2Proof

/-- The fields of the operation word (R101). -/
structure Fields where
  op : BitVec 8
  idx : BitVec 8
  f : Bool
  rsv : BitVec 15
  d : BitVec 32
deriving DecidableEq, Repr

/-- The fields read from a word (R101). -/
def Fields.ofWord (w : BitVec 64) : Fields :=
  { op := w.extractLsb' 0 8, idx := w.extractLsb' 8 8, f := w.getLsbD 16,
    rsv := w.extractLsb' 17 15, d := w.extractLsb' 32 32 }

/-- The word that holds the fields (R101). -/
def Fields.toWord (x : Fields) : BitVec 64 :=
  BitVec.ofNat 64
    (x.op.toNat + 2 ^ 8 * x.idx.toNat + 2 ^ 16 * x.f.toNat + 2 ^ 17 * x.rsv.toNat + 2 ^ 32 * x.d.toNat)

/-- The rows of R104 without their operands. -/
inductive Op where
  | sample
  | update
  | indexPulse
  | spiDone
  | countUp
  | countDown
  | setLinearCount
  | setCircularCount
  | updatePllGains
  | raiseError
  | clearErrors
  | armIndex
  | disarmIndex
  | hallcalStart
  | hallcalStop
  | regRead
  | regWrite
deriving DecidableEq, Repr

/-- The operation code (R104). -/
def Op.code (o : Op) : BitVec 8 :=
  match o with
  | .sample => 0x01
  | .update => 0x02
  | .indexPulse => 0x10
  | .spiDone => 0x11
  | .countUp => 0x12
  | .countDown => 0x13
  | .setLinearCount => 0x20
  | .setCircularCount => 0x21
  | .updatePllGains => 0x22
  | .raiseError => 0x23
  | .clearErrors => 0x24
  | .armIndex => 0x25
  | .disarmIndex => 0x26
  | .hallcalStart => 0x27
  | .hallcalStop => 0x28
  | .regRead => 0x30
  | .regWrite => 0x31

/-- The row of an operation code; nothing for a code that is not in the table (R104, R107). -/
def Op.ofCode (c : BitVec 8) : Option Op :=
  match c.toNat with
  | 0x01 => some .sample
  | 0x02 => some .update
  | 0x10 => some .indexPulse
  | 0x11 => some .spiDone
  | 0x12 => some .countUp
  | 0x13 => some .countDown
  | 0x20 => some .setLinearCount
  | 0x21 => some .setCircularCount
  | 0x22 => some .updatePllGains
  | 0x23 => some .raiseError
  | 0x24 => some .clearErrors
  | 0x25 => some .armIndex
  | 0x26 => some .disarmIndex
  | 0x27 => some .hallcalStart
  | 0x28 => some .hallcalStop
  | 0x30 => some .regRead
  | 0x31 => some .regWrite
  | _ => none

/-- The only agent that may present the operation (R104, 60_exceptions.md R276). -/
def Op.agent (o : Op) : Agent :=
  match o with
  | .sample => .tick
  | .update => .loop
  | .indexPulse => .index
  | .spiDone => .spicb
  | .countUp => .enc
  | .countDown => .enc
  | .setLinearCount => .host
  | .setCircularCount => .host
  | .updatePllGains => .host
  | .raiseError => .host
  | .clearErrors => .host
  | .armIndex => .host
  | .disarmIndex => .host
  | .hallcalStart => .host
  | .hallcalStop => .host
  | .regRead => .host
  | .regWrite => .host

/-- Does the operation's format use `idx` (R102: format R). -/
def Op.usesIdx (o : Op) : Bool := decide (o = .regRead) || decide (o = .regWrite)

/-- Does the operation's format use `f` (R102: formats F and S). -/
def Op.usesFlag (o : Op) : Bool := decide (o = .setCircularCount) || decide (o = .spiDone)

/-- How many low bits of `D` the operation uses (R102, R106). -/
def Op.dataBits (o : Op) : Nat :=
  match o with
  | .setLinearCount => 32
  | .setCircularCount => 32
  | .regWrite => 32
  | .spiDone => 16
  | .raiseError => 8
  | .sample => 0
  | .update => 0
  | .indexPulse => 0
  | .countUp => 0
  | .countDown => 0
  | .updatePllGains => 0
  | .clearErrors => 0
  | .armIndex => 0
  | .disarmIndex => 0
  | .hallcalStart => 0
  | .hallcalStop => 0
  | .regRead => 0

/-- Every bit outside the fields the format uses is zero (R102, R103). -/
def Op.unusedZero (o : Op) (x : Fields) : Bool :=
  (o.usesIdx || decide (x.idx = 0)) && (o.usesFlag || !x.f) && decide (x.rsv = 0)
    && decide (x.d.toNat < 2 ^ o.dataBits)

/-- The operation with its operands assembled from the fields (R106). -/
def Op.build (o : Op) (x : Fields) : Instr :=
  match o with
  | .sample => .sample
  | .update => .update
  | .indexPulse => .indexPulse
  | .spiDone => .spiDone x.f (x.d.setWidth 16)
  | .countUp => .countUp
  | .countDown => .countDown
  | .setLinearCount => .setLinearCount x.d
  | .setCircularCount => .setCircularCount x.d x.f
  | .updatePllGains => .updatePllGains
  | .raiseError => .raiseError (x.d.setWidth 8)
  | .clearErrors => .clearErrors
  | .armIndex => .armIndex
  | .disarmIndex => .disarmIndex
  | .hallcalStart => .hallcalStart
  | .hallcalStop => .hallcalStop
  | .regRead => .regRead x.idx
  | .regWrite => .regWrite x.idx x.d

/-- Why a word encodes no operation (R107). -/
inductive DecodeError where
  /-- `op` has no row in R104. -/
  | unknownOp
  /-- A bit that the row's format requires to be zero is one. -/
  | reservedBitSet
deriving DecidableEq, Repr

/-- Decoding (R103): every word decodes to one operation or is rejected by name. -/
def decode (w : BitVec 64) : Except DecodeError Instr :=
  match Op.ofCode (Fields.ofWord w).op with
  | none => .error .unknownOp
  | some o => if o.unusedZero (Fields.ofWord w) then .ok (o.build (Fields.ofWord w)) else .error .reservedBitSet

/-- The row of an operation (R104). -/
def Instr.op (i : Instr) : Op :=
  match i with
  | .sample => .sample
  | .update => .update
  | .indexPulse => .indexPulse
  | .spiDone _ _ => .spiDone
  | .countUp => .countUp
  | .countDown => .countDown
  | .setLinearCount _ => .setLinearCount
  | .setCircularCount _ _ => .setCircularCount
  | .updatePllGains => .updatePllGains
  | .raiseError _ => .raiseError
  | .clearErrors => .clearErrors
  | .armIndex => .armIndex
  | .disarmIndex => .disarmIndex
  | .hallcalStart => .hallcalStart
  | .hallcalStop => .hallcalStop
  | .regRead _ => .regRead
  | .regWrite _ _ => .regWrite

/-- The agent that may present the operation (60_exceptions.md R276). -/
def Instr.agent (i : Instr) : Agent := i.op.agent

/-- The fields of an operation's word (R101, R102, R106). -/
def Instr.fields (i : Instr) : Fields :=
  match i with
  | .spiDone ok frame => { op := i.op.code, idx := 0, f := ok, rsv := 0, d := frame.setWidth 32 }
  | .setLinearCount n => { op := i.op.code, idx := 0, f := false, rsv := 0, d := n }
  | .setCircularCount n u => { op := i.op.code, idx := 0, f := u, rsv := 0, d := n }
  | .raiseError mask => { op := i.op.code, idx := 0, f := false, rsv := 0, d := mask.setWidth 32 }
  | .regRead idx => { op := i.op.code, idx := idx, f := false, rsv := 0, d := 0 }
  | .regWrite idx value => { op := i.op.code, idx := idx, f := false, rsv := 0, d := value }
  | .sample => { op := i.op.code, idx := 0, f := false, rsv := 0, d := 0 }
  | .update => { op := i.op.code, idx := 0, f := false, rsv := 0, d := 0 }
  | .indexPulse => { op := i.op.code, idx := 0, f := false, rsv := 0, d := 0 }
  | .countUp => { op := i.op.code, idx := 0, f := false, rsv := 0, d := 0 }
  | .countDown => { op := i.op.code, idx := 0, f := false, rsv := 0, d := 0 }
  | .updatePllGains => { op := i.op.code, idx := 0, f := false, rsv := 0, d := 0 }
  | .clearErrors => { op := i.op.code, idx := 0, f := false, rsv := 0, d := 0 }
  | .armIndex => { op := i.op.code, idx := 0, f := false, rsv := 0, d := 0 }
  | .disarmIndex => { op := i.op.code, idx := 0, f := false, rsv := 0, d := 0 }
  | .hallcalStart => { op := i.op.code, idx := 0, f := false, rsv := 0, d := 0 }
  | .hallcalStop => { op := i.op.code, idx := 0, f := false, rsv := 0, d := 0 }

/-- The operation word of an operation (R101). -/
def encode (i : Instr) : BitVec 64 := i.fields.toWord

/-- `match` and `mask` of a row, number for number the table of R105. -/
def Op.matchMask (o : Op) : BitVec 64 × BitVec 64 :=
  match o with
  | .sample => (0x0000000000000001, 0xFFFFFFFFFFFFFFFF)
  | .update => (0x0000000000000002, 0xFFFFFFFFFFFFFFFF)
  | .indexPulse => (0x0000000000000010, 0xFFFFFFFFFFFFFFFF)
  | .spiDone => (0x0000000000000011, 0xFFFF0000FFFEFFFF)
  | .countUp => (0x0000000000000012, 0xFFFFFFFFFFFFFFFF)
  | .countDown => (0x0000000000000013, 0xFFFFFFFFFFFFFFFF)
  | .setLinearCount => (0x0000000000000020, 0x00000000FFFFFFFF)
  | .setCircularCount => (0x0000000000000021, 0x00000000FFFEFFFF)
  | .updatePllGains => (0x0000000000000022, 0xFFFFFFFFFFFFFFFF)
  | .raiseError => (0x0000000000000023, 0xFFFFFF00FFFFFFFF)
  | .clearErrors => (0x0000000000000024, 0xFFFFFFFFFFFFFFFF)
  | .armIndex => (0x0000000000000025, 0xFFFFFFFFFFFFFFFF)
  | .disarmIndex => (0x0000000000000026, 0xFFFFFFFFFFFFFFFF)
  | .hallcalStart => (0x0000000000000027, 0xFFFFFFFFFFFFFFFF)
  | .hallcalStop => (0x0000000000000028, 0xFFFFFFFFFFFFFFFF)
  | .regRead => (0x0000000000000030, 0xFFFFFFFFFFFF00FF)
  | .regWrite => (0x0000000000000031, 0x00000000FFFF00FF)

/-- The word of an instruction whose `nbits` table bits are `w`: the operation word has one length, 64 bits (R100). -/
def tableWord (nbits w : Nat) : BitVec 64 := BitVec.ofNat 64 (w % 2 ^ nbits)

/-- What the decoder reads from an instruction whose bits are `w`, numbered as the opcode table numbers them. -/
def decodeTableWord (nbits w : Nat) : Option Instr := (decode (tableWord nbits w)).toOption

end Sys2Proof
end

