-- ==== Sys2Proof/Machine/Fetch.lean ====
section
/-! DEFINITION. How an operation is presented to the block (00_scope.md R8, 30_encoding.md R100, 60_exceptions.md R276). -/

namespace Sys2Proof.Machine

/-- The operation of a request: REFUSED where the word is reserved (30_encoding.md R107) or another agent presents it
(60_exceptions.md R276). -/
def accept (r : Request) : Except Refusal Instr :=
  match decode r.word with
  | .error _ => .error .reservedWord
  | .ok i => if i.agent = r.agent then .ok i else .error .wrongAgent

/-- Which free draw of a NaN is in force when an operation starts: a REG_READ keeps it, so that two reads with no
operation between give the same value (20_memory.md R78); any other operation takes a new one (log 9). -/
def nextDraw (i : Instr) (n : Nat) : Nat := if i.op = .regRead then n else n + 1

/-- The state an operation starts in: the ports as they are at that moment (20_memory.md R81), the rest as it was. -/
def enter (i : Instr) (p : Ports) (s : State) : State := { s with ports := p, draws := nextDraw i s.draws }

/-- The agent that may present a word; HOST for a reserved word, which no agent may (60_exceptions.md R276). -/
def agentOf (w : BitVec 64) : Agent :=
  match decode w with
  | .ok i => i.agent
  | .error _ => .host

/-- A word presented by its agent, the ports being as the state has them. -/
def requestOf (w : BitVec 64) (s : State) : Request := { agent := agentOf w, word := w, ports := s.ports }

end Sys2Proof.Machine
end

