-- ==== Sys2Proof/Machine/Step.lean ====
section
/-! DEFINITION. One step: the next request, performed whole (00_scope.md R8), and a word placed as the next request. -/

namespace Sys2Proof.Machine

/-- One step of the labelled transition system (00_scope.md R8): the next pending request is performed whole by its
agent. With nothing presented the block stays as it is (60_exceptions.md R288, log 1). -/
def step (s : State) : Host.Outcome State Fault Refusal :=
  match s.pending with
  | [] => .next s
  | r :: rest =>
    match accept r with
    | .error e => .refused e
    | .ok i => exec i (enter i r.ports { s with pending := rest })

/-- The state with one more request before the others: the operation word of `nbits` table bits `w`, presented by the
agent that may present it. The very next step performs it (log 1). -/
def State.withFetchWord (s : State) (nbits w : Nat) : State :=
  { s with pending := requestOf (tableWord nbits w) s :: s.pending }

end Sys2Proof.Machine
end

