-- ==== Sys2Proof/Machine/HostProcedures.lean ====
section
/-! DEFINITION. What the spec fixes of the HOST's software: the pseudo-operations (30_encoding.md R113), the bring-up
(70_reset_and_hazards.md R301) and the five calibration procedures (46_calibration.md), each a sequence of host operations
with the other agents' operations between any two of them, ending in success or failure. They constrain the host, not the
block; what the other agents do, the lengths of the spins and the host's numbers are arguments (R240, R253, log 18). -/

namespace Sys2Proof.Machine

/-- One part of a procedure after another, a refusal ending it. -/
def andThen {α β : Type} (o : Host.Outcome α Fault Refusal) (k : α → Host.Outcome β Fault Refusal) :
    Host.Outcome β Fault Refusal :=
  match o with
  | .next a => k a
  | .fault f => .fault f
  | .refused r => .refused r

/-- REG_READ of a register by its name (30_encoding.md R112). -/
def regReadOf (r : Reg) : Instr := .regRead r.index

/-- REG_WRITE of a register by its name (30_encoding.md R112). -/
def regWriteOf (r : Reg) (v : Word) : Instr := .regWrite r.index v

/-- `TICK`: one control period (30_encoding.md R113). -/
def pseudoTick : List Instr := [.sample, .update]

/-- `ENC: MOVE k` (30_encoding.md R113). -/
def pseudoMove (k : Int) : List Instr :=
  if 0 < k then List.replicate k.toNat .countUp else List.replicate (-k).toNat .countDown

/-- `HOST: CONFIG name=value, ...` (30_encoding.md R113). -/
def pseudoConfig (ws : List (Reg × Word)) : List Instr := ws.map fun w => regWriteOf w.1 w.2

/-- `HOST: SET_BANDWIDTH b` (30_encoding.md R113). -/
def pseudoSetBandwidth (b : F32) : List Instr := [regWriteOf .cfgBandwidth b.bits, .updatePllGains]

/-- `HOST: SET_READY` (30_encoding.md R113). -/
def pseudoSetReady : List Instr := [regWriteOf .isReady 1]

/-- The bring-up of 70_reset_and_hazards.md R301 in incremental mode: the operator's configuration, the platform
parameters, the gains, and the counter aligned by SET_LINEAR_COUNT. -/
def bringUpIncremental (cpr : Word) (bandwidth : F32) (flags : Word) (period : F32) (polePairs : Word)
    (circRange : F32) : List Instr :=
  pseudoConfig
      [(.cfgMode, 0), (.cfgCpr, cpr), (.cfgBandwidth, bandwidth.bits), (.cfgFlags, flags),
       (.xPeriod, period.bits), (.xPolePairs, polePairs), (.xCircRange, circRange.bits)]
    ++ [.updatePllGains, .setLinearCount 0]

/-! What every procedure has (46_calibration.md section 1). -/

/-- An operation of another agent and the port values it finds. -/
structure Event where
  ports : Ports
  instr : Instr
deriving DecidableEq, Repr

/-- What happens between two operations of the host (46_calibration.md R240, R241; 30_encoding.md R113): the other agents'
operations, ticks among them, the port values that the host's next operation finds, and whether the axis by then requests a
different state, which the host polls in every iteration of a spin (R242). -/
structure Interval where
  events : List Event
  ports : Ports
  abortRequested : Bool
deriving DecidableEq, Repr

/-- The block, and what is still to happen before each coming operation of the host; nothing where the list has ended. -/
structure Scene where
  block : State
  intervals : List Interval
deriving DecidableEq, Repr

/-- A procedure of the host: it answers a value, or is REFUSED with one of its operations. -/
abbrev Procedure (α : Type) : Type := Scene → Host.Outcome (α × Scene) Fault Refusal

/-- A procedure that issues nothing. -/
def answer {α : Type} (a : α) : Procedure α := fun w => .next (a, w)

/-- One procedure, then another that depends on its answer. -/
def followedBy {α β : Type} (p : Procedure α) (k : α → Procedure β) : Procedure β :=
  fun w => andThen (p w) fun r => k r.1 r.2

/-- An operation on the port values it finds, as a step performs it (00_scope.md R8). -/
def performEvent (e : Event) (s : State) : Host.Outcome State Fault Refusal := exec e.instr (enter e.instr e.ports s)

/-- The other agents' operations, one after another. -/
def performEvents (es : List Event) (s : State) : Host.Outcome State Fault Refusal :=
  match es with
  | [] => .next s
  | e :: rest => andThen (performEvent e s) (performEvents rest)

/-- The next interval passes; it answers whether an abort is requested. -/
def elapse : Procedure Bool := fun w =>
  match w.intervals with
  | [] => .next (false, w)
  | v :: rest =>
    andThen (performEvents v.events w.block) fun t =>
      .next (v.abortRequested, { block := { t with ports := v.ports }, intervals := rest })

/-- One operation of the host at this moment; it answers the operation's outputs. -/
def issue (i : Instr) : Procedure Outputs := fun w =>
  andThen (performEvent { ports := w.block.ports, instr := i } w.block) fun t => .next (t.out, { w with block := t })

/-- One operation of the host, after whatever comes before it. -/
def perform (i : Instr) : Procedure Outputs := followedBy elapse fun _ => issue i

/-- Operations of the host in order, other agents between any two of them: a sequence of REG_WRITEs is not atomic
(46_calibration.md R241). -/
def performEach (is : List Instr) : Procedure Unit :=
  match is with
  | [] => answer ()
  | i :: rest => followedBy (perform i) fun _ => performEach rest

/-- A REG_READ at this moment and its result (45_system.md R230). -/
def readNow (r : Reg) : Procedure Word := followedBy (issue (regReadOf r)) fun o => answer (o.rdata.getD 0)

/-- A REG_READ and its result, after whatever comes before it. -/
def readReg (r : Reg) : Procedure Word := followedBy elapse fun _ => readNow r

/-- A REG_READ of a one-bit register. -/
def readFlag (r : Reg) : Procedure Bool := followedBy (readReg r) fun v => answer (v.getLsbD 0)

/-- A spin of so many periods (46_calibration.md R240): each passes, the host polls for an abort (R242) and takes a look;
nothing where it was aborted. -/
def eachPeriod {α : Type} (look : Procedure α) (periods : Nat) : Procedure (Option (List α)) :=
  match periods with
  | 0 => answer (some [])
  | n + 1 =>
    followedBy elapse fun abort =>
      if abort then answer none
      else followedBy look fun a => followedBy (eachPeriod look n) fun rest => answer (rest.map fun as => a :: as)

/-- A spin in which the host only polls. -/
def wait (periods : Nat) : Procedure (Option (List Unit)) := eachPeriod (answer ()) periods

/-- A spin with a register read at the end of every period. -/
def sampleEach (r : Reg) (periods : Nat) : Procedure (Option (List Word)) := eachPeriod (readNow r) periods

/-- How a procedure ends (46_calibration.md R240, R241): its boolean outcome, and the operations the host issues last. -/
structure ProcedureEnd where
  succeeded : Bool
  issues : List Instr
deriving DecidableEq, Repr

/-- Success, with the commit (46_calibration.md R241). -/
def succeedWith (commit : List Instr) : ProcedureEnd := { succeeded := true, issues := commit }

/-- Failure, with what the host then issues (46_calibration.md R241, R242). -/
def failWith (issues : List Instr) : ProcedureEnd := { succeeded := false, issues := issues }

/-- RAISE_ERROR of one fault kind (46_calibration.md R241). -/
def raiseOf (k : FaultKind) : Instr := .raiseError (faultMask k)

/-- Failure with a fault kind and no `cal` register written (46_calibration.md R241). -/
def failRaising (k : FaultKind) : ProcedureEnd := failWith [raiseOf k]

/-- The procedure's last operations, and the outcome its caller gets (46_calibration.md R240, R241). -/
def conclude (e : ProcedureEnd) : Procedure Bool := followedBy (performEach e.issues) fun _ => answer e.succeeded

/-- The end of an aborted procedure (46_calibration.md R242): it fails, raises nothing and writes no `cal` register. -/
def abortEnd (armed sampling : Bool) : ProcedureEnd :=
  failWith ((if armed then [.disarmIndex] else []) ++ (if sampling then [.hallcalStop] else []))

/-- A spin, and what follows it unless it was aborted; `armed` and `sampling` say what the procedure has armed
(46_calibration.md R242). -/
def unlessAborted {α : Type} (armed sampling : Bool) (spin : Procedure (Option α)) (rest : α → Procedure Bool) :
    Procedure Bool :=
  followedBy spin fun
    | none => conclude (abortEnd armed sampling)
    | some a => rest a

/-! Hall polarity calibration (46_calibration.md R243, R247). -/

/-- The eight counters after these REG_READs of `HALL_STATE`, one after every UPDATE of the spin (46_calibration.md
R243). -/
def countHallStates (observed : List Word) : List Nat :=
  [0, 1, 2, 3, 4, 5, 6, 7].map fun raw : Word => observed.countP fun v => v = raw

/-- Raw Hall states "confirmed": more than 50 occurrences (46_calibration.md R243). -/
def confirmedStates (counts : List Nat) : List Bool := counts.map fun n => decide (50 < n)

/-- Raw Hall states "seen": at least one occurrence (46_calibration.md R243). -/
def seenStates (counts : List Nat) : List Bool := counts.map fun n => decide (0 < n)

/-- The polarity mask that explains which raw states never occur (46_calibration.md R247), the eight raw states in order,
`true` for a confirmed one; nothing where no pattern matches. -/
def polarityOf (confirmed : List Bool) : Option (BitVec 3) :=
  match confirmed with
  | [false, true, true, true, true, true, true, false] => some 0b000
  | [true, false, true, true, true, true, false, true] => some 0b001
  | [true, true, false, true, true, false, true, true] => some 0b010
  | [true, true, true, false, false, true, true, true] => some 0b100
  | _ => none

/-- The end of the Hall polarity calibration (46_calibration.md R243): from the eight counters, the commit or the fault. -/
def hallPolarityEnd (counts : List Nat) : ProcedureEnd :=
  if seenStates counts = confirmedStates counts then
    match polarityOf (confirmedStates counts) with
    | some m => succeedWith [regWriteOf .cfgHallPolarity (m.setWidth 32), regWriteOf .hallPolarityCalibrated 1]
    | none => failRaising .illegalHallState
  else failRaising .illegalHallState

/-- How the host deals with the illegal states of the spin (46_calibration.md R243): the source does not say which. -/
inductive IllegalStateCare where
  | ignoreDuring
  | clearAfter
deriving DecidableEq, Repr

/-- Bit 3 of `CFG_FLAGS`, `ignore_illegal_hall_state` (10_state.md R45). -/
def ignoreIllegalBit : Word := 0x08

/-- The spin of the polarity calibration, `HALL_STATE` read in every period, with `ignore_illegal_hall_state` set for its
duration or CLEAR_ERRORS after it (46_calibration.md R243), aborted or not (R242, R253). -/
def polaritySpin (care : IllegalStateCare) (periods : Nat) : Procedure (Option (List Word)) :=
  match care with
  | .ignoreDuring =>
    followedBy (readReg .cfgFlags) fun flags =>
      followedBy (perform (regWriteOf .cfgFlags (flags ||| ignoreIllegalBit))) fun _ =>
        followedBy (sampleEach .hallState periods) fun observed =>
          followedBy (perform (regWriteOf .cfgFlags flags)) fun _ => answer observed
  | .clearAfter =>
    followedBy (sampleEach .hallState periods) fun observed =>
      followedBy (perform .clearErrors) fun _ => answer observed

/-- The Hall polarity calibration (46_calibration.md R243); every period's events end with its UPDATE. -/
def hallPolarityCalibration (care : IllegalStateCare) (periods : Nat) : Procedure Bool :=
  unlessAborted false false (polaritySpin care periods) fun observed =>
    conclude (hallPolarityEnd (countHallStates observed))

/-! Hall phase calibration (46_calibration.md R245, R246). -/

/-- The whole edge table written (46_calibration.md R245, R246). -/
def writeEdges (t : Six F32) : List Instr :=
  [regWriteOf (.cfgHallEdge 0) t.e0.bits, regWriteOf (.cfgHallEdge 1) t.e1.bits,
   regWriteOf (.cfgHallEdge 2) t.e2.bits, regWriteOf (.cfgHallEdge 3) t.e3.bits,
   regWriteOf (.cfgHallEdge 4) t.e4.bits, regWriteOf (.cfgHallEdge 5) t.e5.bits]

/-- The real number that a finite binary32 number is. -/
def realOf (x : F32) : Rat := (x.units : Rat) / (F32.one149 : Rat)

/-- `mod_real(x, y)` (46_calibration.md R245): the floored remainder of real numbers. -/
def modReal (x y : Rat) : Rat := x - y * ((x / y).floor : Rat)

/-- A real number wrapped into `(-y/2, y/2]`, as 00_scope.md R16 before it rounds. -/
def wrapReal (x y : Rat) : Rat := if y < 2 * modReal x y then modReal x y - y else modReal x y

/-- The cumulative wrapped delta round the six edges (46_calibration.md R245). -/
def edgeTurn (a : Six Rat) : Rat :=
  wrapReal (a.e1 - a.e0) (realOf F32.twoPi) + wrapReal (a.e2 - a.e1) (realOf F32.twoPi)
    + wrapReal (a.e3 - a.e2) (realOf F32.twoPi) + wrapReal (a.e4 - a.e3) (realOf F32.twoPi)
    + wrapReal (a.e5 - a.e4) (realOf F32.twoPi) + wrapReal (a.e0 - a.e5) (realOf F32.twoPi)

/-- The six means with the sign flipped where the turn is reversed (46_calibration.md R245). -/
def forwardEdges (a : Six Rat) : Six Rat :=
  if edgeTurn a < 0 then ⟨-a.e0, -a.e1, -a.e2, -a.e3, -a.e4, -a.e5⟩ else a

/-- Radians from edge 0 to count units, one electrical revolution being six counts (46_calibration.md R245). -/
def edgeCounts (x x0 : Rat) : Rat := modReal (x - x0) (realOf F32.twoPi) * 6 / realOf F32.twoPi

/-- The six edges re-based on edge 0 and rescaled to counts (46_calibration.md R245). -/
def rebasedEdges (a : Six Rat) : Six Rat :=
  ⟨edgeCounts a.e0 a.e0, edgeCounts a.e1 a.e0, edgeCounts a.e2 a.e0, edgeCounts a.e3 a.e0, edgeCounts a.e4 a.e0,
    edgeCounts a.e5 a.e0⟩

/-- The exact edge table of a successful Hall phase calibration, from the six means (46_calibration.md R245). -/
def exactEdges (acc : Six F32) : Six Rat :=
  rebasedEdges (forwardEdges
    ⟨realOf acc.e0, realOf acc.e1, realOf acc.e2, realOf acc.e3, realOf acc.e4, realOf acc.e5⟩)

/-- The table the host writes on success: the exact one, `edge[0]` being 0 and each other entry rounded by the host
(46_calibration.md R245). -/
def roundedEdges (round : Rat → F32) (acc : Six F32) : Six F32 :=
  ⟨F32.zero, round (exactEdges acc).e1, round (exactEdges acc).e2, round (exactEdges acc).e3,
    round (exactEdges acc).e4, round (exactEdges acc).e5⟩

/-- An edge that the spin never sampled, `n[k] == 0` for some `k` (46_calibration.md R245). -/
def edgeUnsampled (seen : Six Word) : Bool :=
  decide (seen.e0 = 0) || decide (seen.e1 = 0) || decide (seen.e2 = 0) || decide (seen.e3 = 0) || decide (seen.e4 = 0)
    || decide (seen.e5 = 0)

/-- HALLCAL_STOP, answering whether the ambiguous transition of 43_hall.md R195 raised its fault during the spin: between
the host's HALLCAL_START and its HALLCAL_STOP nothing else clears `calibrate_hall_phase` (10_state.md R35, log 28). An older
standing bit 1 of `ERROR`, or one raised by an illegal state (43_hall.md R192), is no failure of this procedure. -/
def stopSampling : Procedure Bool :=
  followedBy elapse fun _ w =>
    followedBy (issue .hallcalStop) (fun _ => answer !w.block.status.calibrateHallPhase) w

/-- Six registers read in order. -/
def readSix (r : Fin 6 → Reg) : Procedure (Six Word) :=
  followedBy (readReg (r 0)) fun a => followedBy (readReg (r 1)) fun b => followedBy (readReg (r 2)) fun c =>
    followedBy (readReg (r 3)) fun d => followedBy (readReg (r 4)) fun e => followedBy (readReg (r 5)) fun f =>
      answer ⟨a, b, c, d, e, f⟩

/-- Six `f32` registers from their patterns. -/
def floatsOf (ws : Six Word) : Six F32 := ⟨⟨ws.e0⟩, ⟨ws.e1⟩, ⟨ws.e2⟩, ⟨ws.e3⟩, ⟨ws.e4⟩, ⟨ws.e5⟩⟩

/-- The end of the Hall phase calibration (46_calibration.md R245, R246), from the means, the counts and whether a transition
was ambiguous: the table on success; on failure the fault bit, which R241 asks for (log 28), and the default evenly spaced
table. -/
def hallPhaseEnd (round : Rat → F32) (acc : Six F32) (seen : Six Word) (ambiguous : Bool) : ProcedureEnd :=
  if edgeUnsampled seen || ambiguous then failWith (raiseOf .illegalHallState :: writeEdges defaultHallEdges)
  else succeedWith (writeEdges (roundedEdges round acc))

/-- The Hall phase calibration (46_calibration.md R245, R246). -/
def hallPhaseCalibration (round : Rat → F32) (periods : Nat) : Procedure Bool :=
  followedBy (perform .hallcalStart) fun _ =>
    unlessAborted false true (wait periods) fun _ =>
      followedBy stopSampling fun ambiguous =>
        followedBy (readSix .hallcalAcc) fun acc =>
          followedBy (readSix .hallcalSeen) fun seen => conclude (hallPhaseEnd round (floatsOf acc) seen ambiguous)

/-! Index search and direction find (46_calibration.md R248, R249). -/

/-- The lockin-spin: until `INDEX_FOUND` reads 1 or the spin ends (46_calibration.md R248); nothing where it was aborted
(R242). -/
def spinUntilIndex (periods : Nat) : Procedure (Option Bool) :=
  match periods with
  | 0 => followedBy (readFlag .indexFound) fun found => answer (some found)
  | n + 1 =>
    followedBy elapse fun abort =>
      if abort then answer none
      else followedBy (readNow .indexFound) fun v => if v.getLsbD 0 then answer (some true) else spinUntilIndex n

/-- The end of the index search (46_calibration.md R248): disarmed where the index was not found, which raises no fault. -/
def indexSearchEnd (found : Bool) : ProcedureEnd := if found then succeedWith [] else failWith [.disarmIndex]

/-- The index search (46_calibration.md R248): ARM_INDEX, which fails the search where the GPIO subscribe fails; then the
spin, and its end. -/
def indexSearch (periods : Nat) : Procedure Bool :=
  followedBy (perform .armIndex) fun o =>
    match o.result with
    | .fail => conclude (failWith [])
    | .ok => unlessAborted true false (spinUntilIndex periods) fun found => conclude (indexSearchEnd found)

/-- The direction that direction find derives from two counts (46_calibration.md R249): more than 8 counts either way. -/
def directionFound (c0 c1 : Word) : Word :=
  if 8 < (wrap32 (c1.toInt - c0.toInt)).toInt then 1
  else if (wrap32 (c1.toInt - c0.toInt)).toInt < -8 then -1
  else 0

/-- The end of direction find (46_calibration.md R249): a direction of 0 is success too. -/
def directionEnd (c0 c1 : Word) : ProcedureEnd := succeedWith [regWriteOf .cfgDirection (directionFound c0 c1)]

/-- Direction find (46_calibration.md R249). -/
def directionFind (periods : Nat) : Procedure Bool :=
  followedBy (readReg .shadowCount) fun c0 =>
    unlessAborted false false (wait periods) fun _ =>
      followedBy (readReg .shadowCount) fun c1 => conclude (directionEnd c0 c1)

/-! Offset calibration (46_calibration.md R250 to R252). -/

/-- The first precondition (46_calibration.md R250): with `use_index`, the index found. -/
def indexPrecondition : Procedure (Option FaultKind) :=
  followedBy (readFlag .cfgFlags) fun useIndex =>
    followedBy (readFlag .indexFound) fun found =>
      answer (if useIndex && !found then some .indexNotFoundYet else none)

/-- The second precondition (46_calibration.md R250): in Hall mode, the polarity calibrated. -/
def polarityPrecondition : Procedure (Option FaultKind) :=
  followedBy (readReg .cfgMode) fun mode =>
    followedBy (readFlag .hallPolarityCalibrated) fun calibrated =>
      answer (if decide (mode = 1) && !calibrated then some .hallNotCalibratedYet else none)

/-- A check, and the rest of the procedure only where it raises nothing (46_calibration.md R241). -/
def checked (check : Procedure (Option FaultKind)) (rest : Procedure Bool) : Procedure Bool :=
  followedBy check fun
    | some k => conclude (failRaising k)
    | none => rest

/-- The count that the sweep's electrical angle should move, exactly (46_calibration.md R251). With `X_POLE_PAIRS` 0, where
the rule's quotient has no value, it is 0 (DESIGN CHOICE, log 32). -/
def expectedMotion (distance : F32) (polePairs cpr : Word) : Rat :=
  realOf distance / (realOf F32.twoPi * (polePairs.toInt : Rat)) * (cpr.toInt : Rat)

/-- The net motion of the forward sweep, `wrap32(c_fwd - c_start)` (46_calibration.md R251). -/
def sweepMotion (start fwd : Word) : Int := (wrap32 (fwd.toInt - start.toInt)).toInt

/-- The form of the tolerance, which the source leaves open (46_calibration.md R251): counts, or a share of the expected
motion. -/
inductive ToleranceForm where
  | absolute
  | relative
deriving DecidableEq, Repr

/-- The tolerance that `CFG_CALIB_RANGE` sets (46_calibration.md R251), in counts, for an expected motion. -/
def offsetTolerance (form : ToleranceForm) (range : F32) (expected : Rat) : Rat :=
  match form with
  | .absolute => realOf range
  | .relative => realOf range * |expected|

/-- The motion check (46_calibration.md R251) on a net motion `d`; the threshold is the host's. -/
def motionCheck (threshold : Int) (d : Int) : Option FaultKind := if |d| < threshold then some .noResponse else none

/-- The count check (46_calibration.md R251) on a net motion `d` and an expected one; the form of the tolerance is the
host's. -/
def countCheck (form : ToleranceForm) (range : F32) (expected : Rat) (d : Int) : Option FaultKind :=
  if offsetTolerance form range expected < |(|d| : Rat) - expected| then some .cprPolepairsMismatch else none

/-- The count check with what it reads (46_calibration.md R251): the expectation is the rule's formula, rounded by the
host. -/
def readCountCheck (round : Rat → F32) (form : ToleranceForm) (distance : F32) (d : Int) :
    Procedure (Option FaultKind) :=
  followedBy (readReg .xPolePairs) fun polePairs =>
    followedBy (readReg .cfgCpr) fun cpr =>
      followedBy (readReg .cfgCalibRange) fun range =>
        answer (countCheck form ⟨range⟩ (realOf (round (expectedMotion distance polePairs cpr))) d)

/-- The integer part of the mean sampled count (46_calibration.md R252): the floor; 0 where nothing was sampled and there is
no mean (DESIGN CHOICE, log 32). -/
def offsetInteger (samples : List Int) : Int := samples.sum / samples.length

/-- The exact value that `CFG_PHASE_OFFSET_FLOAT` rounds (46_calibration.md R252): the residual fraction plus a half; a half
where nothing was sampled (DESIGN CHOICE, log 32). -/
def offsetFraction (samples : List Int) : Rat :=
  ((samples.sum % samples.length : Int) : Rat) / samples.length + 1 / 2

/-- The commit of the offset calibration (46_calibration.md R252), `IS_READY` last; the host rounds the fraction. -/
def offsetCommit (direction : Word) (samples : List Int) (fraction : F32) : List Instr :=
  [regWriteOf .cfgDirection direction, regWriteOf .cfgPhaseOffset (wrap32 (offsetInteger samples)),
   regWriteOf .cfgPhaseOffsetFloat fraction.bits, regWriteOf .isReady 1]

/-- The direction that the forward sweep's net motion gives, `sign(d)` (46_calibration.md R251). -/
def sweepDirection (d : Int) : Word := BitVec.ofInt 32 d.sign

/-- The end of the offset calibration (46_calibration.md R252): the commit, with the mean of the samples of both sweeps and
its fraction rounded by the host. -/
def offsetEnd (round : Rat → F32) (d : Int) (samples : List Int) : ProcedureEnd :=
  succeedWith (offsetCommit (sweepDirection d) samples (round (offsetFraction samples)))

/-- The sweeps of the offset calibration from the start position (46_calibration.md R251, R252): forward, the two checks in
their order, and only where both pass backward and the commit. -/
def offsetSweeps (round : Rat → F32) (threshold : Int) (form : ToleranceForm) (periods : Nat) : Procedure Bool :=
  followedBy (readReg .shadowCount) fun start =>
    followedBy (readReg .cfgCalibScanDistance) fun distance =>
      followedBy (readReg .cfgCalibScanVel) fun _ =>
        unlessAborted false false (sampleEach .shadowCount periods) fun forward =>
          followedBy (readReg .shadowCount) fun fwd =>
            checked (answer (motionCheck threshold (sweepMotion start fwd))) <|
              checked (readCountCheck round form ⟨distance⟩ (sweepMotion start fwd)) <|
                unlessAborted false false (sampleEach .shadowCount periods) fun backward =>
                  conclude (offsetEnd round (sweepMotion start fwd) ((forward ++ backward).map fun v => v.toInt))

/-- The offset calibration (46_calibration.md R250 to R252): the preconditions in their order, the drive to the start
position, the sweeps. -/
def offsetCalibration (round : Rat → F32) (threshold : Int) (form : ToleranceForm) (approach periods : Nat) :
    Procedure Bool :=
  checked indexPrecondition <| checked polarityPrecondition <|
    unlessAborted false false (wait approach) fun _ => offsetSweeps round threshold form periods

/-! Readiness by configuration (46_calibration.md R244). -/

/-- A condition, and the rest only where it holds. -/
def provided (condition : Procedure Bool) (rest : Procedure Bool) : Procedure Bool :=
  followedBy condition fun holds => if holds then rest else answer false

/-- `INDEX_FOUND = 1` if `use_index = 1` (46_calibration.md R244). -/
def indexKnown (flags : Word) : Procedure Bool :=
  followedBy (readFlag .indexFound) fun found => answer (!flags.getLsbD 0 || found)

/-- `HALL_POLARITY_CALIBRATED = 1` if `CFG_MODE = MODE_HALL` (46_calibration.md R244). -/
def polarityKnown : Procedure Bool :=
  followedBy (readReg .cfgMode) fun mode =>
    followedBy (readFlag .hallPolarityCalibrated) fun calibrated => answer (!decide (mode = 1) || calibrated)

/-- The host sets `IS_READY` by configuration, its second situation (46_calibration.md R244), `loaded` saying that the
stored artifacts have been loaded. -/
def readyByConfiguration (loaded : Bool) : Procedure Bool :=
  followedBy (readReg .cfgFlags) fun flags =>
    provided (answer (loaded && flags.getLsbD 1)) <|
      provided (followedBy (readReg .error) fun e => answer (decide (e = 0))) <|
        provided (indexKnown flags) <| provided polarityKnown <| conclude (succeedWith pseudoSetReady)

end Sys2Proof.Machine
end

