-- ==== Sys2Proof/Safety.lean ====
section
/-! DEFINITION. The terms that claims use: the duties of the environment (20_memory.md R82, R83), runs, and the invariants
the spec states of the block. -/

namespace Sys2Proof.Machine

/-- In every tick SAMPLE precedes UPDATE and each occurs once (20_memory.md R82): a duty of the environment that the
block does not check (70_reset_and_hazards.md R310). `sampled`: a SAMPLE has come and its UPDATE has not. -/
def tickOrdered (sampled : Bool) (is : List Instr) : Bool :=
  match is with
  | [] => true
  | i :: rest =>
    if i = .sample then !sampled && tickOrdered true rest
    else if i = .update then sampled && tickOrdered false rest
    else tickOrdered sampled rest

/-- One step took `s` to `t`. -/
def Steps (s t : State) : Prop := step s = .next t

/-- `t` is reached from `s` by `n` steps. -/
def StepsTo (n : Nat) (s t : State) : Prop := Sys2Proof.core.run n s = .next t

/-- `INTERPOLATION` lies in `[0, 1]` (10_state.md R51). -/
abbrev InterpolationInUnit (s : State) : Prop :=
  F32.zero.le s.est.interpolation = true ∧ s.est.interpolation.le F32.one = true

/-- A binary32 number in `(-PI, PI]`. -/
abbrev InPhaseRange (x : F32) : Prop := F32.pi.negate.lt x = true ∧ x.le F32.pi = true

/-- `PHASE` and the six running means lie in `(-PI, PI]` (10_state.md R30, 43_hall.md R194). -/
abbrev PhasesInRange (s : State) : Prop :=
  InPhaseRange s.est.phase ∧ InPhaseRange s.hallCal.acc.e0 ∧ InPhaseRange s.hallCal.acc.e1 ∧
    InPhaseRange s.hallCal.acc.e2 ∧ InPhaseRange s.hallCal.acc.e3 ∧ InPhaseRange s.hallCal.acc.e4 ∧
    InPhaseRange s.hallCal.acc.e5

/-- A standing fault keeps both validity flags clear (60_exceptions.md R262, R263). -/
abbrev FaultInvalidates (s : State) : Prop :=
  s.error ≠ 0 → s.status.posValid = false ∧ s.status.velValid = false

/-- `CFG_DIRECTION` holds -1, 0 or +1 (10_state.md R41, 45_system.md R231). -/
abbrev DirectionLegal (s : State) : Prop := legalDirection s.cfg.direction = true

/-- `COUNT_IN_CPR` lies in `[0, cpr)` (10_state.md R51), the upper bound from the first write of `CFG_CPR` on. -/
abbrev CountInRange (s : State) : Prop :=
  0 ≤ s.est.countInCpr.toInt ∧ (s.written.cpr = true → s.est.countInCpr.toInt < s.cfg.cpr.toInt)

/-- `POS_CPR_COUNTS` lies in `[0, cpr)` (10_state.md R51), the upper bound from the first write of `CFG_CPR` on. -/
abbrev PosCprInRange (s : State) : Prop :=
  F32.zero.le s.est.posCpr = true ∧ (s.written.cpr = true → s.est.posCpr.lt (F32.ofInt s.cfg.cpr.toInt) = true)

/-- The next request writes `CFG_CPR` with the value `v` (the hazard of 70_reset_and_hazards.md R313). -/
abbrev NextWritesCpr (s : State) (v : Word) : Prop :=
  ∃ r rest, s.pending = r :: rest ∧ decode r.word = .ok (.regWrite 0x01 v)

/-- `m` is `MODE_ABS(v)` (30_encoding.md R110). -/
abbrev AbsVariant (nAbs : Nat) (m : Word) (v : Nat) : Prop := m.toNat = 256 + v ∧ v < 256 ∧ v < nAbs

/-- `m` is a mode of 30_encoding.md R110. -/
abbrev SupportedMode (nAbs : Nat) (m : Word) : Prop := m = 0 ∨ m = 1 ∨ m = 2 ∨ ∃ v, AbsVariant nAbs m v

/-- `CFG_CPR` meets the conditions that the mode puts on it (10_state.md R39). -/
structure CprFitsMode (s : State) : Prop where
  incremental : s.cfg.mode = 0 → s.cfg.cpr.toInt % 2 = 0
  hall : s.cfg.mode = 1 → s.cfg.cpr.toInt = 6
  abs : ∀ v, AbsVariant s.params.nAbs s.cfg.mode v → s.cfg.cpr.toInt % 2 = 0 ∧ 16384 ≤ s.cfg.cpr.toInt

/-- `CFG_CPR` is positive, and legal for the current mode once the host has written one (10_state.md R39, R50, log 11). -/
structure CprLegal (s : State) : Prop where
  positive : 0 < s.cfg.cpr.toInt
  fits : s.written.mode = true → CprFitsMode s

/-- `CFG_BANDWIDTH` and `X_PERIOD` as UPDATE_PLL_GAINS needs them (10_state.md R40, R47; 42_pll.md R160). -/
structure GainsLegal (s : State) : Prop where
  bandwidthFinite : s.cfg.bandwidth.isFinite = true
  bandwidthNotNegative : F32.zero.le s.cfg.bandwidth = true
  periodFinite : s.plat.period.isFinite = true
  periodPositive : F32.zero.lt s.plat.period = true

/-- What UPDATE needs of the configuration in a supported mode (10_state.md R38, R39, R41, R47, R50). -/
structure UpdateLegal (s : State) : Prop where
  modeSupported : SupportedMode s.params.nAbs s.cfg.mode
  cprPositive : 0 < s.cfg.cpr.toInt
  cprFits : CprFitsMode s
  direction : s.cfg.direction = 0xFFFFFFFF ∨ s.cfg.direction = 0 ∨ s.cfg.direction = 1
  periodFinite : s.plat.period.isFinite = true
  periodPositive : F32.zero.lt s.plat.period = true
  polePairs : 1 ≤ s.plat.polePairs.toInt
  circRangeFinite : s.plat.circRange.isFinite = true
  circRangePositive : F32.zero.lt s.plat.circRange = true
  alpha : (∃ v, AbsVariant s.params.nAbs s.cfg.mode v) →
    F32.zero.lt s.plat.spiErrAlpha = true ∧ s.plat.spiErrAlpha.lt F32.one = true

/-- `d` is the representative of `a` modulo `n` in `(-n/2, n/2]`: `centered(a, n)` (00_scope.md R12). -/
abbrev CenteredOf (d a n : Int) : Prop := (a - d) % n = 0 ∧ -n < 2 * d ∧ 2 * d ≤ n

/-- The scratch registers after one more sample of edge `k` (43_hall.md R194): the running mean on the circle. -/
def EdgeAveraged (k : Fin 6) (sample : F32) (c c' : HallCal) : Prop :=
  ∃ m : F32,
    c'.acc = c.acc.set k m ∧
    c'.seen = c.seen.set k (BitVec.ofNat 32 (min ((c.seen.get k).toNat + 1) (2 ^ 32 - 1))) ∧
    ((c.seen.get k).toNat = 0 → sample.wrapPm F32.twoPi = some m) ∧
    ((c.seen.get k).toNat ≠ 0 → ∃ dd : F32,
      (sample.sub (c.acc.get k)).wrapPm F32.twoPi = some dd ∧
      ((c.acc.get k).add (dd.div (F32.ofInt ((c.seen.get k).toNat + 1)))).wrapPm F32.twoPi = some m)

/-- Is a register one of the Hall phase-calibration scratch registers (10_state.md R49). -/
def isHallScratch (r : Reg) : Bool := decide (0x34 ≤ r.index.toNat)

/-- The column "Written by" of the register table (10_state.md R22). A REG_WRITE writes the register of its index. -/
def mayWrite (r : Reg) (i : Instr) : Bool :=
  match i with
  | .regWrite idx _ => decide (Reg.ofIndex idx = some r)
  | .sample => decide (r ∈ [.timCntSample, .sincosS, .sincosC, .status, .isReady, .error])
  | .update =>
    decide (r ∈ [.isReady, .shadowCount, .countInCpr, .posEstimateCounts, .velEstimateCounts, .posCprCounts,
      .interpolation, .posCircular, .phase, .phaseVel, .hallState, .spiErrorRate, .status, .error])
      || isHallScratch r
  | .indexPulse =>
    decide (r ∈ [.cfgPhaseOffset, .isReady, .indexFound, .shadowCount, .countInCpr, .posEstimateCounts,
      .posCprCounts, .status, .hwcnt])
  | .spiDone _ _ => decide (r ∈ [.posAbs, .status])
  | .countUp => decide (r = .hwcnt)
  | .countDown => decide (r = .hwcnt)
  | .setLinearCount _ => decide (r ∈ [.shadowCount, .posEstimateCounts, .hwcnt])
  | .setCircularCount _ _ => decide (r ∈ [.cfgPhaseOffset, .countInCpr, .posCprCounts])
  | .updatePllGains => decide (r ∈ [.pllKp, .pllKi, .isReady, .status, .error])
  | .raiseError _ => decide (r ∈ [.isReady, .status, .error])
  | .clearErrors => decide (r = .error)
  | .armIndex => decide (r = .status)
  | .disarmIndex => decide (r = .status)
  | .hallcalStart => decide (r = .status) || isHallScratch r
  | .hallcalStop => decide (r = .status)
  | .regRead _ => false

/-- Two readings of the ports agree on every port that the operation reads in this state (10_state.md R52). -/
def PortsAgree (i : Instr) (s : State) (p q : Ports) : Prop :=
  match i with
  | .sample =>
    (s.cfg.mode = 2 → p.adcSin = q.adcSin ∧ p.adcCos = q.adcCos) ∧
      ((∃ v, AbsVariant s.params.nAbs s.cfg.mode v) → p.spiAccept = q.spiAccept)
  | .update =>
    s.cfg.mode = 1 →
      p.hallSnapshot = q.hallSnapshot ∧
        (s.status.calibrateHallPhase = true → p.olPhaseValid = q.olPhaseValid ∧ p.olPhase = q.olPhase)
  | .armIndex => p.subscribeOk = q.subscribeOk
  | .indexPulse => True
  | .spiDone _ _ => True
  | .countUp => True
  | .countDown => True
  | .setLinearCount _ => True
  | .setCircularCount _ _ => True
  | .updatePllGains => True
  | .raiseError _ => True
  | .clearErrors => True
  | .disarmIndex => True
  | .hallcalStart => True
  | .hallcalStop => True
  | .regRead _ => True
  | .regWrite _ _ => True

/-- Two outcomes whose next states are alike under `f`, or the same refusal. -/
def SameUpTo (f : State → State) (x y : Host.Outcome State Fault Refusal) : Prop :=
  match x, y with
  | .next t, .next u => f t = f u
  | .refused a, .refused b => a = b
  | _, _ => False

/-- The state with other written bits, but for the mode's (10_state.md R50). -/
def withWritten (w : Written) (s : State) : State :=
  { s with written := { w with mode := s.written.mode } }

/-- A binary32 number of magnitude at most `b`. -/
abbrev Bounded (x b : F32) : Prop := x.abs.le b = true

/-- `2^29`. -/
def twoPow29 : F32 := ⟨0x4E000000⟩
/-- `2^30`. -/
def twoPow30 : F32 := ⟨0x4E800000⟩

end Sys2Proof.Machine
end

