-- ==== Sys2Proof/Certificates/Slice0/Obligations.lean ====
section
/-! DEFINITION. The statements for the provers: what the rules of the spec say of the block. A result statement gives the
whole next state, so that its frame is in it: every field that it does not name is as before. -/

open Sys2Proof Sys2Proof.Machine

/-! The operation word (30_encoding.md). -/

/-- Every operation, whatever its operands, is read back from its word (R101 to R106). -/
def Obligations.DecodeEncodeAgree : Prop :=
  ∀ i : Instr, decode (encode i) = .ok i

/-- A word that decodes is the word of what it decodes to: no bit of it is dropped (R102, R103). -/
def Obligations.EncodeDecodeAgree : Prop :=
  ∀ (w : BitVec 64) (i : Instr), decode w = .ok i → encode i = w

/-- The match and mask table of R105 says exactly which words decode to which row. -/
def Obligations.DecodeMatchesMaskTable : Prop :=
  ∀ (w : BitVec 64) (o : Op), (∃ i, decode w = .ok i ∧ i.op = o) ↔ w &&& o.matchMask.2 = o.matchMask.1

/-- A word that no row of the table matches is REFUSED, whatever agent presents it and whatever the state (R107). -/
def Obligations.ReservedWordsRefused : Prop :=
  ∀ (s : State) (r : Request) (rest : List Request),
    s.pending = r :: rest → (∀ o : Op, r.word &&& o.matchMask.2 ≠ o.matchMask.1) →
      step s = .refused .reservedWord

/-- One word of each family, written out from R101 and R104, decodes to its operation. -/
def Obligations.DecodeOfWrittenWords : Prop :=
  decode 0x0000000000000001 = .ok .sample ∧
    decode 0x0000000000000002 = .ok .update ∧
    decode 0x0000000000000010 = .ok .indexPulse ∧
    decode 0x0000812300010011 = .ok (.spiDone true 0x8123) ∧
    decode 0x0000000000000013 = .ok .countDown ∧
    decode 0xFFFFFFFF00000020 = .ok (.setLinearCount 0xFFFFFFFF) ∧
    decode 0x0000000000010021 = .ok (.setCircularCount 0 true) ∧
    decode 0x0000001000000023 = .ok (.raiseError 0x10) ∧
    decode 0x0000000000002030 = .ok (.regRead 0x20) ∧
    decode 0x447A000000000231 = .ok (.regWrite 0x02 0x447A0000) ∧
    decode 0x0000000000000000 = .error .unknownOp ∧
    decode 0x0001812300010011 = .error .reservedBitSet

/-! One step. -/

/-- When the next request's word decodes and its agent may present it, the step is the operation's meaning, on the state
with that request taken, the ports as the request has them, and the next free draw for a NaN in force unless the operation
is REG_READ. -/
def Obligations.StepRunsDecodedInstruction : Prop :=
  ∀ (s : State) (r : Request) (rest : List Request) (i : Instr),
    s.pending = r :: rest → decode r.word = .ok i → i.agent = r.agent →
      step s = exec i { s with
        pending := rest
        ports := r.ports
        draws := if i.op = .regRead then s.draws else s.draws + 1 }

/-- A decodable word placed as the next request is what the very next step performs, with the ports the state has. How a
word comes to be presented is the model's choice (log 1). -/
def Obligations.StepRunsPlacedWord : Prop :=
  ∀ (s : State) (w : BitVec 64) (i : Instr), decode w = .ok i →
    step (s.withFetchWord 64 w.toNat) =
      exec i { s with draws := if i.op = .regRead then s.draws else s.draws + 1 }

/-- The permission table of 60_exceptions.md R276, and the refusal of an operation on another agent's port. -/
def Obligations.WrongAgentRefused : Prop :=
  (Instr.agent .sample = .tick ∧ Instr.agent .update = .loop ∧ Instr.agent .indexPulse = .index ∧
    (∀ ok frame, Instr.agent (.spiDone ok frame) = .spicb) ∧
    Instr.agent .countUp = .enc ∧ Instr.agent .countDown = .enc ∧
    (∀ n, Instr.agent (.setLinearCount n) = .host) ∧ (∀ n u, Instr.agent (.setCircularCount n u) = .host) ∧
    Instr.agent .updatePllGains = .host ∧ (∀ m, Instr.agent (.raiseError m) = .host) ∧
    Instr.agent .clearErrors = .host ∧ Instr.agent .armIndex = .host ∧ Instr.agent .disarmIndex = .host ∧
    Instr.agent .hallcalStart = .host ∧ Instr.agent .hallcalStop = .host ∧
    (∀ idx, Instr.agent (.regRead idx) = .host) ∧ (∀ idx v, Instr.agent (.regWrite idx v) = .host)) ∧
  ∀ (s : State) (r : Request) (rest : List Request) (i : Instr),
    s.pending = r :: rest → decode r.word = .ok i → r.agent ≠ i.agent → step s = .refused .wrongAgent

/-! Faults (60_exceptions.md). -/

/-- `raise Fault(K)` as R262 writes it, for each of the eight kinds, and nothing beside it. -/
def Obligations.RaiseFaultEffect : Prop :=
  ∀ (k : FaultKind) (s : State),
    raiseFault k s =
        { s with
          error := s.error ||| ((1 : BitVec 8) <<< faultBit k)
          status.posValid := false
          status.velValid := false
          isReady := s.isReady && !s.params.readyClearMask.getLsbD (faultBit k) } ∧
      (raiseFault k s).encoderFailed = true

/-- RAISE_ERROR: all bits of the mask at once, the order not being observable (45_system.md R228, R268); with a mask of
zero nothing but the outcome changes. -/
def Obligations.RaiseErrorResult : Prop :=
  ∀ (mask : BitVec 8) (s : State),
    exec (.raiseError mask) s = .next
      { s with
        error := s.error ||| mask
        status.posValid := s.status.posValid && decide (mask = 0)
        status.velValid := s.status.velValid && decide (mask = 0)
        isReady := s.isReady && decide (s.params.readyClearMask &&& mask = 0)
        out := Outputs.plain .ok }

/-- CLEAR_ERRORS clears `ERROR` and restores nothing else (45_system.md R229). -/
def Obligations.ClearErrorsResult : Prop :=
  ∀ s : State, exec .clearErrors s = .next { s with error := 0, out := Outputs.plain .ok } ∧
    State.encoderFailed { s with error := 0 } = false

/-- SAMPLE and UPDATE with `CFG_MODE` not a mode of the table: the fault of bit 3, FAIL, and no counter, no PLL register, no
raw sample and no output moves (40_sampler.md R135, 41_tracker.md R141). That UPDATE then needs no other register of the
configuration to be legal is the model's reading of 10_state.md R50 (log 10). -/
def Obligations.UnsupportedModeFaults : Prop :=
  ∀ s : State, ¬ SupportedMode s.params.nAbs s.cfg.mode →
    ∀ i : Instr, i = .sample ∨ i = .update →
      exec i s = .next
        { s with
          error := s.error ||| 0x08
          status.posValid := false
          status.velValid := false
          isReady := s.isReady && !s.params.readyClearMask.getLsbD 3
          out := Outputs.plain .fail }

/-- A set bit of `ERROR` stays set through every operation but CLEAR_ERRORS, and the bits 4 to 7 are set by RAISE_ERROR
only (60_exceptions.md R260, R263). -/
def Obligations.ErrorBitsSticky : Prop :=
  ∀ (i : Instr) (s t : State), exec i s = .next t → i ≠ .clearErrors →
    (∀ k : Nat, s.error.getLsbD k = true → t.error.getLsbD k = true) ∧
      ((∀ mask, i ≠ .raiseError mask) → ∀ k : Nat, 4 ≤ k → t.error.getLsbD k = s.error.getLsbD k)

/-- How a bit of `ERROR`, the validity flags and `IS_READY` come back (60_exceptions.md R264): an `ERROR` bit is cleared by
CLEAR_ERRORS only; a validity flag rises only at the end of an UPDATE that completes with `ERROR = 0`; `IS_READY` rises only
by a host write of 1 or by a noted index pulse with `pre_calibrated = 1` and `ERROR = 0`. -/
def Obligations.RecoveryPaths : Prop :=
  ∀ (i : Instr) (s t : State), exec i s = .next t →
    ((∃ k : Nat, s.error.getLsbD k = true ∧ t.error.getLsbD k = false) → i = .clearErrors) ∧
      (s.status.posValid = false → t.status.posValid = true →
        i = .update ∧ s.error = 0 ∧ t.error = 0 ∧ t.out.result = .ok) ∧
      (s.status.velValid = false → t.status.velValid = true →
        i = .update ∧ s.error = 0 ∧ t.error = 0 ∧ t.out.result = .ok) ∧
      (s.isReady = false → t.isReady = true →
        (∃ v : BitVec 32, i = .regWrite 0x12 v ∧ v.getLsbD 0 = true) ∨
          (i = .indexPulse ∧ s.status.indexArmed = true ∧ s.cfg.flags.useIndex = true ∧
            s.cfg.flags.preCalibrated = true ∧ s.error = 0))

/-! The Sampler (40_sampler.md). -/

/-- SAMPLE in the incremental, the Hall and the sin/cos mode (R131, R132, R133). -/
def Obligations.SampleCapturesRawInputs : Prop :=
  ∀ s : State,
    (s.cfg.mode = 0 →
      exec .sample s = .next { s with raw.timCntSample := s.hwcnt, out := Outputs.plain .ok }) ∧
    (s.cfg.mode = 1 → exec .sample s = .next { s with out := Outputs.plain .ok }) ∧
    (s.cfg.mode = 2 →
      exec .sample s = .next
        { s with
          raw.sincosS := s.ports.adcSin.sub F32.half
          raw.sincosC := s.ports.adcCos.sub F32.half
          out := Outputs.plain .ok })

/-- SAMPLE in an ABS mode (R134): nothing while a transaction is out; else one request of one word out of `SPIBUF_TX`
with the answer to `SPIBUF_RX`, in flight where the arbiter accepts it. -/
def Obligations.SampleIssuesSpiRequest : Prop :=
  ∀ (s : State) (v : Nat), AbsVariant s.params.nAbs s.cfg.mode v →
    (s.status.spiInflight = true → exec .sample s = .next { s with out := Outputs.plain .ok }) ∧
    (s.status.spiInflight = false →
      exec .sample s = .next
        { s with
          status.spiInflight := s.ports.spiAccept
          out :=
            { result := .ok
              rdata := none
              spiRequest := some { tx := .spibufTx, rx := .spibufRx, words := 1, sent := s.spi.tx }
              gpio := none } })

/-! The counters and what sets them (41_tracker.md, 45_system.md). -/

/-- COUNT_UP and COUNT_DOWN step the counter modulo 65536 and change nothing else (R236, R237). -/
def Obligations.CountSteps : Prop :=
  ∀ s : State,
    (∃ t, exec .countUp s = .next t ∧ t.hwcnt.toNat = (s.hwcnt.toNat + 1) % 65536 ∧
      t = { s with hwcnt := t.hwcnt, out := Outputs.plain .ok }) ∧
    (∃ t, exec .countDown s = .next t ∧ (t.hwcnt.toNat : Int) = ((s.hwcnt.toNat : Int) - 1) % 65536 ∧
      t = { s with hwcnt := t.hwcnt, out := Outputs.plain .ok })

/-- SET_LINEAR_COUNT writes `SHADOW_COUNT`, `POS_ESTIMATE_COUNTS` and `HWCNT`, in every state, and nothing else (R152). -/
def Obligations.SetLinearCountResult : Prop :=
  ∀ (n : BitVec 32) (s : State),
    ∃ t, exec (.setLinearCount n) s = .next t ∧
      t.est.shadowCount = n ∧ t.est.posEstimate = F32.ofInt n.toInt ∧ t.hwcnt.toNat = n.toNat % 65536 ∧
      t = { s with
        est.shadowCount := t.est.shadowCount
        est.posEstimate := t.est.posEstimate
        hwcnt := t.hwcnt
        out := Outputs.plain .ok }

/-- SET_CIRCULAR_COUNT with a legal `CFG_CPR` (R154): the floored modulo in `[0, cpr)`, the shift of the offset if asked,
the rebase of the cpr-local position if the implementation has it, and nothing else; REFUSED where `CFG_CPR` is not
positive. R154's other refusal, of a `CFG_CPR` that holds no value, is of that kind: before the host writes it, it is 0 by
the model's choice (log 8). -/
def Obligations.SetCircularCountResult : Prop :=
  (∀ (n : BitVec 32) (u : Bool) (s : State), s.cfg.cpr.toInt ≤ 0 →
    exec (.setCircularCount n u) s = .refused .invalidConfig) ∧
  ∀ (n : BitVec 32) (u : Bool) (s : State), CprLegal s →
    ∃ t, exec (.setCircularCount n u) s = .next t ∧
      0 ≤ t.est.countInCpr.toInt ∧ t.est.countInCpr.toInt < s.cfg.cpr.toInt ∧
      (n.toInt - t.est.countInCpr.toInt) % s.cfg.cpr.toInt = 0 ∧
      t.cfg.phaseOffset =
        (if u then s.cfg.phaseOffset + (t.est.countInCpr - s.est.countInCpr) else s.cfg.phaseOffset) ∧
      t.est.posCpr = (if s.params.circRebasePll then F32.ofInt t.est.countInCpr.toInt else s.est.posCpr) ∧
      t = { s with
        cfg.phaseOffset := t.cfg.phaseOffset
        est.countInCpr := t.est.countInCpr
        est.posCpr := t.est.posCpr
        out := Outputs.plain .ok }

/-- The offset-corrected count, which feeds the phase, is the same before and after a rebase that shifts the offset, by
the host or by an index pulse with `INDEX_UPDATE_OFFSET` (R154, 45_system.md R220). -/
def Obligations.CorrectedCountContinuous : Prop :=
  ∀ (i : Instr) (s t : State), exec i s = .next t →
    (∃ n, i = .setCircularCount n true) ∨ (i = .indexPulse ∧ s.params.indexUpdateOffset = true) →
      t.est.countInCpr - t.cfg.phaseOffset = s.est.countInCpr - s.cfg.phaseOffset ∧
        correctedCount t = correctedCount s

/-! The gains (42_pll.md). -/

/-- UPDATE_PLL_GAINS (R160): with a legal bandwidth and period the gains are written, then tested; else REFUSED. That
a `kp` whose square overflows passes where the period is small enough, beside a corner case of R160, is the model's reading
(log 29); that a register the host has not written is judged by its value at reset is the model's choice (log 8). -/
def Obligations.UpdatePllGainsResult : Prop :=
  (∀ s : State, ¬ GainsLegal s → exec .updatePllGains s = .refused .invalidConfig) ∧
  ∀ s : State, GainsLegal s →
    let kp := F32.two.mul s.cfg.bandwidth
    let ki := F32.quarter.mul (kp.mul kp)
    ((s.plat.period.mul kp).ge F32.one = true →
      exec .updatePllGains s = .next
        { s with
          est.kp := kp
          est.ki := ki
          error := s.error ||| 0x01
          status.posValid := false
          status.velValid := false
          isReady := s.isReady && !s.params.readyClearMask.getLsbD 0
          out := Outputs.plain .fail }) ∧
    ((s.plat.period.mul kp).ge F32.one = false →
      exec .updatePllGains s = .next { s with est.kp := kp, est.ki := ki, out := Outputs.plain .ok })

/-! The index, the arming, the Hall sampling switch (45_system.md). -/

/-- ARM_INDEX by the answer of the GPIO subscribe, and DISARM_INDEX (45_system.md section 1). What the outputs show of the
GPIO call is the model's own choice, which no rule states (logs 3, 19). -/
def Obligations.IndexArming : Prop :=
  ∀ s : State,
    (s.ports.subscribeOk = true →
      exec .armIndex s = .next
        { s with
          status.indexArmed := true
          out := { result := .ok, rdata := none, spiRequest := none,
                   gpio := some (.subscribe s.params.indexEdgePolarity s.params.indexPull) } }) ∧
    (s.ports.subscribeOk = false →
      exec .armIndex s = .next
        { s with
          out := { result := .fail, rdata := none, spiRequest := none,
                   gpio := some (.subscribe s.params.indexEdgePolarity s.params.indexPull) } }) ∧
    exec .disarmIndex s = .next
      { s with
        status.indexArmed := false
        out := { result := .ok, rdata := none, spiRequest := none, gpio := some .unsubscribe } }

/-- HALLCAL_START and HALLCAL_STOP (R226, R227). -/
def Obligations.HallcalSwitches : Prop :=
  ∀ s : State,
    exec .hallcalStart s = .next
      { s with
        hallCal :=
          { acc := ⟨⟨0⟩, ⟨0⟩, ⟨0⟩, ⟨0⟩, ⟨0⟩, ⟨0⟩⟩, seen := ⟨0, 0, 0, 0, 0, 0⟩, lastHallCnt := BitVec.ofInt 32 (-1) }
        status.calibrateHallPhase := true
        out := Outputs.plain .ok } ∧
    exec .hallcalStop s = .next { s with status.calibrateHallPhase := false, out := Outputs.plain .ok }

/-- INDEX_PULSE while not armed or with `use_index = 0`: nothing changes, OK (R223). While armed and with `use_index = 1`:
the rebase to zero (R220), the linear offset `n` where `use_index_offset = 1` (R221), the readiness (R222), the pulse noted
and the interrupt disarmed, and nothing else. REFUSED where `CFG_CPR` is not positive, or the linear offset asked for has no
32-bit integer. That the first refusal comes also while not armed (log 20), and that a refused linear offset refuses the
whole pulse (log 21), are the model's reading of R220, R221 and R223; that a register the host has not written counts with
its value at reset is the model's choice (log 8). -/
def Obligations.IndexPulseEffect : Prop :=
  (∀ s : State, s.cfg.cpr.toInt ≤ 0 → exec .indexPulse s = .refused .invalidConfig) ∧
  (∀ s : State, CprLegal s → s.status.indexArmed = true → s.cfg.flags.useIndex = true →
    s.cfg.flags.useIndexOffset = true → (s.cfg.indexOffset.mul (F32.ofInt s.cfg.cpr.toInt)).truncInt = none →
      exec .indexPulse s = .refused .floatToInt) ∧
  (∀ s : State, CprLegal s →
    s.status.indexArmed = false ∨ s.cfg.flags.useIndex = false →
      exec .indexPulse s = .next { s with out := Outputs.plain .ok }) ∧
  ∀ (s : State) (n : Int), CprLegal s → s.status.indexArmed = true → s.cfg.flags.useIndex = true →
    (s.cfg.flags.useIndexOffset = true → (s.cfg.indexOffset.mul (F32.ofInt s.cfg.cpr.toInt)).truncInt = some n) →
      exec .indexPulse s = .next
        { s with
          cfg.phaseOffset :=
            if s.params.indexUpdateOffset then s.cfg.phaseOffset - s.est.countInCpr else s.cfg.phaseOffset
          est.countInCpr := 0
          est.posCpr := if s.params.circRebasePll then ⟨0⟩ else s.est.posCpr
          est.shadowCount := if s.cfg.flags.useIndexOffset then BitVec.ofInt 32 n else s.est.shadowCount
          est.posEstimate := if s.cfg.flags.useIndexOffset then F32.ofInt n else s.est.posEstimate
          hwcnt := if s.cfg.flags.useIndexOffset then BitVec.ofInt 16 n else s.hwcnt
          isReady :=
            if s.cfg.flags.preCalibrated then s.isReady || decide (s.error = 0)
            else s.isReady && s.params.indexUpdateOffset
          indexFound := true
          status.indexArmed := false
          out := Outputs.plain .ok }

/-! The register space (10_state.md R22, 45_system.md R230 to R232). -/

/-- The register table: the reserved indices, one index for each register, the class `ro` from index 0x20 up, and the
registers to which the spec gives no value at reset (10_state.md R22, R55). -/
def Obligations.RegisterTableAgrees : Prop :=
  (∀ idx : BitVec 8, Reg.ofIndex idx = none ↔
    (0x15 ≤ idx.toNat ∧ idx.toNat ≤ 0x17) ∨ (0x1C ≤ idx.toNat ∧ idx.toNat ≤ 0x1F) ∨ 0x41 ≤ idx.toNat) ∧
  (∀ r : Reg, Reg.ofIndex r.index = some r) ∧
  (∀ r : Reg, r.hostClass = .ro ↔ 0x20 ≤ r.index.toNat) ∧
  (∀ r : Reg, holdsValue r State.reset = false ↔
    r ∈ [.cfgMode, .cfgCpr, .cfgBandwidth, .cfgFlags, .cfgCalibScanVel, .cfgCalibScanDistance, .cfgCalibRange,
      .cfgIndexOffset, .xPeriod, .xPolePairs, .xCircRange, .xSpiErrAlpha])

/-- REG_READ of a register gives its content on `rdata` and changes no state; where an `f32` register holds a NaN, what is
read is a NaN (R230; 42_pll.md R177). A reserved index is REFUSED. That a register which the host has not written reads as
its value at reset, where R230 refuses, is the model's choice (log 8). -/
def Obligations.RegReadResult : Prop :=
  (∀ (idx : BitVec 8) (s : State), Reg.ofIndex idx = none → exec (.regRead idx) s = .refused .reservedIndex) ∧
  ∀ (idx : BitVec 8) (r : Reg) (s : State), Reg.ofIndex idx = some r →
    ∃ v : Word,
      exec (.regRead idx) s =
        .next { s with out := { result := .ok, rdata := some v, spiRequest := none, gpio := none } } ∧
      (r.type ≠ .f32 ∨ (F32.mk (regContent r s)).isNaN = false → v = regContent r s) ∧
      (r.type = .f32 → (F32.mk (regContent r s)).isNaN = true → (F32.mk v).isNaN = true)

/-- REG_WRITE of a register the host may write, with a value it takes: the register holds the value, cut to its type, and
no other register and nothing else of the state changes (R231). A reserved index, a register of class `ro`, and
`CFG_DIRECTION` with a value other than -1, 0 and +1 are REFUSED. -/
def Obligations.RegWriteResult : Prop :=
  (∀ (idx : BitVec 8) (v : Word) (s : State), Reg.ofIndex idx = none →
    exec (.regWrite idx v) s = .refused .reservedIndex) ∧
  (∀ (r : Reg) (v : Word) (s : State), r.hostClass = .ro →
    exec (.regWrite r.index v) s = .refused .readOnlyRegister) ∧
  (∀ (v : Word) (s : State), v.toInt ≠ -1 → v.toInt ≠ 0 → v.toInt ≠ 1 →
    exec (.regWrite 0x03 v) s = .refused .illegalDirection) ∧
  ∀ (r : Reg) (v : Word) (s : State), r.hostClass ≠ .ro →
    (r = .cfgDirection → v.toInt = -1 ∨ v.toInt = 0 ∨ v.toInt = 1) →
    ∃ t, exec (.regWrite r.index v) s = .next t ∧
      holdsValue r t = true ∧
      (r.type = .s32 ∨ r.type = .f32 → regContent r t = v) ∧
      (∀ n, r.type = .u n → (regContent r t).toNat = v.toNat % 2 ^ n) ∧
      (r.type = .flags → regContent r t = v &&& 0x1F) ∧
      (∀ r' : Reg, r' ≠ r → regContent r' t = regContent r' s ∧ holdsValue r' t = holdsValue r' s) ∧
      t.spi = s.spi ∧ t.params = s.params ∧ t.ports = s.ports ∧ t.pending = s.pending ∧ t.draws = s.draws ∧
      t.out = Outputs.plain .ok

/-- An operation changes the content of a register only where the register table lists it as a writer (10_state.md R22). -/
def Obligations.RegistersChangeOnlyByTheirWriters : Prop :=
  ∀ (i : Instr) (s t : State) (r : Reg), exec i s = .next t → mayWrite r i = false →
    regContent r t = regContent r s ∧ holdsValue r t = holdsValue r s

/-! The Absolute-SPI Protocol (44_abs_spi.md). -/

/-- SPI_DONE (R202, R203): REFUSED with nothing in flight; else the frame lands, the slot is released, and an accepted
frame of a successful transfer in an ABS mode is latched and marked. A `CFG_MODE` that the host has not written names the
mode of its value at reset, the model's choice (log 8). -/
def Obligations.SpiDoneResult : Prop :=
  ∀ (ok : Bool) (frame : BitVec 16) (s : State),
    (s.status.spiInflight = false → exec (.spiDone ok frame) s = .refused .nothingInFlight) ∧
    (s.status.spiInflight = true → ok = false ∨ (¬ ∃ v, AbsVariant s.params.nAbs s.cfg.mode v) →
      exec (.spiDone ok frame) s = .next
        { s with spi.rx := frame, status.spiInflight := false, out := Outputs.plain .ok }) ∧
    (∀ v, s.status.spiInflight = true → ok = true → AbsVariant s.params.nAbs s.cfg.mode v →
      exec (.spiDone ok frame) s = .next
        (match Config.absDecode v frame with
        | none => { s with spi.rx := frame, status.spiInflight := false, out := Outputs.plain .ok }
        | some p =>
          { s with
            spi.rx := frame
            spi.posAbs := p
            status.spiInflight := false
            status.absSpiPosUpdated := true
            out := Outputs.plain .ok }))

/-! UPDATE (41_tracker.md, 42_pll.md, 43_hall.md, 44_abs_spi.md). -/

/-- Where a register that the operation needs holds an illegal value the operation is REFUSED (10_state.md R50): UPDATE in a
supported mode, SET_CIRCULAR_COUNT and INDEX_PULSE, and so all three right after reset. The reading of R50 is the model's:
logs 10, 11 and 20 (what each operation is judged by), and log 8 (the values at reset). -/
def Obligations.InvalidConfigurationRefused : Prop :=
  (∀ s : State,
    (SupportedMode s.params.nAbs s.cfg.mode → ¬ UpdateLegal s → exec .update s = .refused .invalidConfig) ∧
    (¬ CprLegal s →
      (∀ n u, exec (.setCircularCount n u) s = .refused .invalidConfig) ∧
        exec .indexPulse s = .refused .invalidConfig)) ∧
  ¬ UpdateLegal State.reset ∧ ¬ CprLegal State.reset

/-- Steps 2 to 7 of UPDATE, formula for formula (R148, R149, R162 to R176), once step 1 has given a delta: the whole next
state, for every state in which the modelled counts `m`, `mc`, the wrapped error `ec`, the fraction `frac` and, while
ready, the wrapped phase exist. That it goes on while not ready with a raw phase that is not finite, which R174's own
sentence does not allow, is the model's reading (log 13), and so is what `POS_CIRCULAR` becomes where it is not finite
(log 12). -/
def Obligations.UpdateObserverResult : Prop :=
  ∀ (s t : State) (delta : Int) (latch : Option Word) (m mc : Int) (ec frac phase : F32),
    UpdateLegal s → stepOne s = .moved delta latch t →
    let period := s.plat.period
    let cprf := F32.ofInt s.cfg.cpr.toInt
    let shadow := t.est.shadowCount + BitVec.ofInt 32 delta
    let count := latch.getD (BitVec.ofInt 32 ((t.est.countInCpr.toInt + delta) % s.cfg.cpr.toInt))
    let tv := period.mul t.est.velEstimate
    let pos1 := t.est.posEstimate.add tv
    let cpr1 := t.est.posCpr.add tv
    let err := F32.ofInt (BitVec.ofInt 32 (shadow.toInt - m)).toInt
    let pos2 := pos1.add ((period.mul t.est.kp).mul err)
    let cpr2 := (cpr1.add ((period.mul t.est.kp).mul ec)).fmodPos cprf
    let vel2 := t.est.velEstimate.add ((period.mul t.est.ki).mul ec)
    let snap := vel2.abs.lt ((F32.half.mul period).mul t.est.ki)
    let vel3 := if snap then F32.zero else vel2
    let x := t.est.interpolation.add (period.mul vel3)
    let interpolation :=
      if snap = true ∨ s.cfg.flags.enablePhaseInterpolation = false then F32.half
      else if 0 < delta then F32.zero
      else if delta < 0 then F32.one
      else if x.ge F32.zero = false then F32.zero
      else if x.gt F32.one then F32.one
      else x
    let erpc := ((F32.ofInt s.plat.polePairs.toInt).mul F32.twoPi).div cprf
    let corr := F32.ofInt (count - s.cfg.phaseOffset).toInt
    let dir := F32.ofInt s.cfg.direction.toInt
    let ph := (erpc.mul ((corr.add interpolation).sub s.cfg.phaseOffsetFloat)).mul dir
    let pv := (((F32.twoPi.mul vel3).mul (F32.ofInt s.plat.polePairs.toInt)).div cprf).mul dir
    encoderModel s pos1 = some m →
    encoderModel s cpr1 = some mc →
    (F32.ofInt (count.toInt - mc)).wrapPm cprf = some ec →
    ((cpr2.sub t.est.posCpr).div cprf).wrapPm F32.one = some frac →
    (s.isReady = true → ph.wrapPm F32.twoPi = some phase) →
      exec .update s = .next
        { t with
          est :=
            { shadowCount := shadow
              countInCpr := count
              posEstimate := pos2
              velEstimate := vel3
              posCpr := cpr2
              interpolation := interpolation
              posCircular := (t.est.posCircular.add frac).fmodPos s.plat.circRange
              phase := if s.isReady then phase else t.est.phase
              phaseVel := if s.isReady then pv else t.est.phaseVel
              kp := t.est.kp
              ki := t.est.ki }
          status.posValid := t.status.posValid || decide (t.error = 0)
          status.velValid := t.status.velValid || decide (t.error = 0)
          out := Outputs.plain .ok }

/-- Where UPDATE has no value to go on with (R164, R174): the plain floor of a position that is not finite or whose floor
leaves 32 bits, in any mode, and a raw phase that is not finite while ready. Both are REFUSED. That the first holds for a
`hall_model` other than the default is the model's reading (log 30). -/
def Obligations.UpdateRefusedWithoutValue : Prop :=
  (∀ (p : F32) (n : Int), p.floorInt = some n ↔
    p.isFinite = true ∧ n * 2 ^ 149 ≤ p.units ∧ p.units < (n + 1) * 2 ^ 149 ∧ -2147483648 ≤ n ∧ n < 2147483648) ∧
  (∀ (s : State) (p : F32),
    (encoderModel s p = none ↔ p.floorInt = none) ∧ (s.cfg.mode ≠ 1 → encoderModel s p = p.floorInt)) ∧
  ∀ (s t : State) (delta : Int) (latch : Option Word), UpdateLegal s → stepOne s = .moved delta latch t →
    let tv := s.plat.period.mul t.est.velEstimate
    (encoderModel s (t.est.posEstimate.add tv) = none ∨ encoderModel s (t.est.posCpr.add tv) = none →
      exec .update s = .refused .floatToInt) ∧
    ∀ u : State, estimate delta (applyDelta delta latch t) = .ok u → u.isReady = true →
      (rawPhase u).isFinite = false → exec .update s = .refused .notFinite

/-- UPDATE completes with OK on ordinary data, whatever the mode: a legal configuration, no early exit due, `cpr` at most
2^24, a period of at most one second, a product of period and `kp` below one, the positions, the velocity and the float
offset within the bounds below. -/
def Obligations.UpdateCompletesOnBoundedData : Prop :=
  ∀ s : State, UpdateLegal s →
    s.cfg.cpr.toInt ≤ 16777216 → s.plat.period.le F32.one = true →
    F32.zero.le s.est.kp = true → (s.plat.period.mul s.est.kp).lt F32.one = true →
    F32.zero.le s.est.posCpr = true → s.est.posCpr.lt (F32.ofInt s.cfg.cpr.toInt) = true →
    Bounded s.est.posEstimate twoPow30 → Bounded s.est.velEstimate twoPow29 →
    Bounded s.cfg.phaseOffsetFloat twoPow30 →
    (s.cfg.mode = 1 → s.status.calibrateHallPhase = false ∧
      (s.ports.hallSnapshot ^^^ s.cfg.hallPolarity ≠ 0 ∧ s.ports.hallSnapshot ^^^ s.cfg.hallPolarity ≠ 7)) →
    ((∃ v, AbsVariant s.params.nAbs s.cfg.mode v) → s.status.absSpiPosUpdated = true) →
      ∃ t, exec .update s = .next t ∧ t.out = Outputs.plain .ok

/-- UPDATE in incremental mode (R143, R148): the delta is the 16-bit sign-extended difference, both counters move by it,
and the low half of `SHADOW_COUNT` equals the sample again. -/
def Obligations.UpdateIncrementalCounts : Prop :=
  ∀ s t : State, exec .update s = .next t → s.cfg.mode = 0 →
    t.out.result = .ok ∧ low16 t.est.shadowCount = s.raw.timCntSample ∧
      ∃ delta : Int, -32768 ≤ delta ∧ delta < 32768 ∧
        (delta - ((s.raw.timCntSample.toNat : Int) - ((low16 s.est.shadowCount).toNat : Int))) % 65536 = 0 ∧
        t.est.shadowCount = s.est.shadowCount + BitVec.ofInt 32 delta ∧
        t.est.countInCpr.toInt = (s.est.countInCpr.toInt + delta) % s.cfg.cpr.toInt

/-- UPDATE in Hall mode with a legal state that it goes on with (R190, R191, R193, R149): the raw bits are kept, the count is
the sequence count, and `SHADOW_COUNT` moves by the distance modulo 6 centred to `(-3, 3]`. -/
def Obligations.UpdateHallCounts : Prop :=
  ∀ (s t : State) (h : Fin 6), exec .update s = .next t → s.cfg.mode = 1 →
    hallCount (s.ports.hallSnapshot ^^^ s.cfg.hallPolarity) = some h → t.out.result = .ok →
      t.raw.hallState = s.ports.hallSnapshot ∧ t.est.countInCpr.toInt = h.val ∧
        ∃ delta : Int, CenteredOf delta (h.val - s.est.countInCpr.toInt) 6 ∧
          t.est.shadowCount = s.est.shadowCount + BitVec.ofInt 32 delta

/-- The edge sampling of an UPDATE in Hall mode while `calibrate_hall_phase = 1` (R194): the first count is only recorded; no
edge or no open-loop phase averages nothing; a step up into `h` averages slot `h`; a step down out of the last count
averages that count's slot. -/
def Obligations.UpdateHallEdgeSampling : Prop :=
  ∀ (s t : State) (h : Fin 6), exec .update s = .next t → s.cfg.mode = 1 →
    s.status.calibrateHallPhase = true →
    hallCount (s.ports.hallSnapshot ^^^ s.cfg.hallPolarity) = some h → t.out.result = .ok →
      t.hallCal.lastHallCnt.toInt = h.val ∧
      (s.hallCal.lastHallCnt.toInt < 0 ∨ s.hallCal.lastHallCnt.toInt = h.val ∨ s.ports.olPhaseValid = false →
        t.hallCal.acc = s.hallCal.acc ∧ t.hallCal.seen = s.hallCal.seen) ∧
      (0 ≤ s.hallCal.lastHallCnt.toInt → s.ports.olPhaseValid = true →
        (h.val - s.hallCal.lastHallCnt.toInt) % 6 = 1 → EdgeAveraged h s.ports.olPhase s.hallCal t.hallCal) ∧
      (∀ k : Fin 6, s.hallCal.lastHallCnt.toInt = k.val → s.ports.olPhaseValid = true →
        ((h.val : Int) - k.val) % 6 = 5 → EdgeAveraged k s.ports.olPhase s.hallCal t.hallCal)

/-- An illegal Hall state (R192): without the ignore flag the fault of bit 1 and FAIL, with nothing but `HALL_STATE` moved;
with it UPDATE goes on as with no movement, the calibration scratch untouched. -/
def Obligations.UpdateIllegalHallState : Prop :=
  ∀ s : State, UpdateLegal s → s.cfg.mode = 1 →
    s.ports.hallSnapshot ^^^ s.cfg.hallPolarity = 0 ∨ s.ports.hallSnapshot ^^^ s.cfg.hallPolarity = 7 →
    (s.cfg.flags.ignoreIllegalHallState = false →
      exec .update s = .next
        { s with
          raw.hallState := s.ports.hallSnapshot
          error := s.error ||| 0x02
          status.posValid := false
          status.velValid := false
          isReady := s.isReady && !s.params.readyClearMask.getLsbD 1
          out := Outputs.plain .fail }) ∧
    (s.cfg.flags.ignoreIllegalHallState = true → 0 ≤ s.est.countInCpr.toInt →
      s.est.countInCpr.toInt < s.cfg.cpr.toInt → ∀ t, exec .update s = .next t →
      t.out.result = .ok ∧ t.raw.hallState = s.ports.hallSnapshot ∧ t.est.shadowCount = s.est.shadowCount ∧
        t.est.countInCpr = s.est.countInCpr ∧ t.hallCal = s.hallCal)

/-- An ambiguous transition during the phase calibration (R195): the sampling stops, the fault of bit 1 is raised, UPDATE
reports FAIL, and the counters, the PLL and the calibration scratch are untouched. -/
def Obligations.UpdateAmbiguousTransition : Prop :=
  ∀ (s : State) (h : Fin 6), UpdateLegal s → s.cfg.mode = 1 → s.status.calibrateHallPhase = true →
    hallCount (s.ports.hallSnapshot ^^^ s.cfg.hallPolarity) = some h → 0 ≤ s.hallCal.lastHallCnt.toInt →
    2 ≤ (h.val - s.hallCal.lastHallCnt.toInt) % 6 → (h.val - s.hallCal.lastHallCnt.toInt) % 6 ≤ 4 →
      exec .update s = .next
        { s with
          raw.hallState := s.ports.hallSnapshot
          error := s.error ||| 0x02
          status.posValid := false
          status.velValid := false
          status.calibrateHallPhase := false
          isReady := s.isReady && !s.params.readyClearMask.getLsbD 1
          out := Outputs.plain .fail }

/-- UPDATE in sin/cos mode (R145): the count becomes the position that `sincos_count` gives, by the shorter way round. -/
def Obligations.UpdateSincosCounts : Prop :=
  ∀ s t : State, exec .update s = .next t → s.cfg.mode = 2 →
    t.out.result = .ok ∧
      ∃ c delta : Int, c = sincosCount s.raw.sincosS s.raw.sincosC s.cfg.cpr.toInt ∧ 0 ≤ c ∧ c < s.cfg.cpr.toInt ∧
        CenteredOf delta (c - s.est.countInCpr.toInt) s.cfg.cpr.toInt ∧
        t.est.shadowCount = s.est.shadowCount + BitVec.ofInt 32 delta ∧ t.est.countInCpr.toInt = c

/-- The error-rate gate closing (R205): a miss that lifts the smoothed rate above 0x3D4CCCCD raises the fault of bit 2 and
ends UPDATE with FAIL, the rate keeping its new value. -/
def Obligations.UpdateAbsComFail : Prop :=
  ∀ (s : State) (v : Nat), UpdateLegal s → AbsVariant s.params.nAbs s.cfg.mode v →
    s.status.absSpiPosUpdated = false →
    let rate := s.spi.errorRate.add (s.plat.spiErrAlpha.mul (F32.one.sub s.spi.errorRate))
    rate.gt ⟨0x3D4CCCCD⟩ = true →
      exec .update s = .next
        { s with
          spi.errorRate := rate
          error := s.error ||| 0x04
          status.posValid := false
          status.velValid := false
          isReady := s.isReady && !s.params.readyClearMask.getLsbD 2
          out := Outputs.plain .fail }

/-- UPDATE in an ABS mode that goes on (R205, R206, R149): the rate falls on a hit and rises on a miss, the flag is consumed, the
count is the latched position, and `SHADOW_COUNT` moves by the shorter way round. -/
def Obligations.UpdateAbsCounts : Prop :=
  ∀ (s t : State) (v : Nat), exec .update s = .next t → AbsVariant s.params.nAbs s.cfg.mode v →
    t.out.result = .ok →
      t.status.absSpiPosUpdated = false ∧
      t.spi.errorRate =
        s.spi.errorRate.add (s.plat.spiErrAlpha.mul
          ((if s.status.absSpiPosUpdated then F32.zero else F32.one).sub s.spi.errorRate)) ∧
      t.spi.posAbs = s.spi.posAbs ∧ t.est.countInCpr.toInt = s.spi.posAbs.toNat ∧
      ∃ delta : Int, CenteredOf delta (s.spi.posAbs.toNat - s.est.countInCpr.toInt) s.cfg.cpr.toInt ∧
        t.est.shadowCount = s.est.shadowCount + BitVec.ofInt 32 delta

/-- The early exits of UPDATE (R147): wherever it reports FAIL, one of the four named cases holds and has raised its kind,
and the counters, every PLL register, every output, the configuration and the counter are as they were. -/
def Obligations.UpdateEarlyExits : Prop :=
  ∀ s t : State, exec .update s = .next t → t.out.result = .fail →
    t.est = s.est ∧ t.cfg = s.cfg ∧ t.hwcnt = s.hwcnt ∧ t.status.posValid = false ∧ t.status.velValid = false ∧
      ((¬ SupportedMode s.params.nAbs s.cfg.mode ∧ t.error = s.error ||| 0x08) ∨
        (s.cfg.mode = 1 ∧ s.cfg.flags.ignoreIllegalHallState = false ∧
          hallCount (s.ports.hallSnapshot ^^^ s.cfg.hallPolarity) = none ∧
          t.error = s.error ||| 0x02 ∧ t.raw.hallState = s.ports.hallSnapshot) ∨
        (s.cfg.mode = 1 ∧ s.status.calibrateHallPhase = true ∧
          (∃ h : Fin 6, hallCount (s.ports.hallSnapshot ^^^ s.cfg.hallPolarity) = some h ∧
            0 ≤ s.hallCal.lastHallCnt.toInt ∧ 2 ≤ (h.val - s.hallCal.lastHallCnt.toInt) % 6 ∧
            (h.val - s.hallCal.lastHallCnt.toInt) % 6 ≤ 4) ∧
          t.error = s.error ||| 0x02 ∧ t.raw.hallState = s.ports.hallSnapshot ∧ t.hallCal = s.hallCal) ∨
        ((∃ v, AbsVariant s.params.nAbs s.cfg.mode v) ∧ s.status.absSpiPosUpdated = false ∧
          t.error = s.error ||| 0x04 ∧ t.spi.errorRate.gt ⟨0x3D4CCCCD⟩ = true ∧
          t.spi.errorRate = s.spi.errorRate.add (s.plat.spiErrAlpha.mul (F32.one.sub s.spi.errorRate))))

/-- `PHASE` and `PHASE_VEL` move only in an UPDATE that begins while `IS_READY = 1` (10_state.md R30, 42_pll.md R174). -/
def Obligations.PhaseMovesOnlyWhenReady : Prop :=
  ∀ (i : Instr) (s t : State), exec i s = .next t →
    t.est.phase ≠ s.est.phase ∨ t.est.phaseVel ≠ s.est.phaseVel → i = .update ∧ s.isReady = true

/-- Direction 0 (42_pll.md R173, 70_reset_and_hazards.md R317): a complete UPDATE while ready gives `PHASE` exactly `+0.0`,
and `PHASE_VEL` a zero of either sign unless the velocity made it a NaN. -/
def Obligations.DirectionZeroSilencesPhase : Prop :=
  ∀ s t : State, exec .update s = .next t → t.out.result = .ok → s.isReady = true → s.cfg.direction = 0 →
    t.est.phase = ⟨0⟩ ∧ (t.est.phaseVel.isNaN = false → t.est.phaseVel.mag = 0) ∧ t.error = s.error

/-- The default Hall encoder model differs from the floor by at most one, and so does every other one, which equals the
floor under the default table (42_pll.md R166). -/
def Obligations.HallModelNearFloor : Prop :=
  ∀ (kind : HallModelKind) (p : F32) (edge : Six F32) (c : Int),
    (hallModel kind p edge c = c - 1 ∨ hallModel kind p edge c = c ∨ hallModel kind p edge c = c + 1) ∧
      (kind = .other → edge = defaultHallEdges → hallModel kind p edge c = c)

/-- The Hall lookup (43_hall.md R191): the sequence 1, 3, 2, 6, 4, 5 counts 0 to 5, a bijection, and 0 and 7 are rejected. -/
def Obligations.HallLookupBijective : Prop :=
  (hallCount 1 = some 0 ∧ hallCount 3 = some 1 ∧ hallCount 2 = some 2 ∧ hallCount 6 = some 3 ∧
    hallCount 4 = some 4 ∧ hallCount 5 = some 5) ∧
  (∀ b : BitVec 3, hallCount b = none ↔ b = 0 ∨ b = 7) ∧
  (∀ h : Fin 6, ∃! b : BitVec 3, hallCount b = some h)

/-- The polarity table (46_calibration.md R247): a mask is chosen exactly where it has at most one bit set and the
confirmed raw states are those the decoder accepts under it. -/
def Obligations.PolarityExplainsMissingStates : Prop :=
  ∀ (c0 c1 c2 c3 c4 c5 c6 c7 : Bool) (m : BitVec 3),
    polarityOf [c0, c1, c2, c3, c4, c5, c6, c7] = some m ↔
      (m = 0 ∨ m = 1 ∨ m = 2 ∨ m = 4) ∧
        [c0, c1, c2, c3, c4, c5, c6, c7] =
          [0, 1, 2, 3, 4, 5, 6, 7].map fun raw : BitVec 3 => (hallCount (raw ^^^ m)).isSome

/-! Invariants that every step keeps. -/

/-- `INTERPOLATION` stays in `[0, 1]` (10_state.md R51). -/
def Obligations.StepKeepsInterpolationInUnit : Prop :=
  ∀ s t : State, InterpolationInUnit s → step s = .next t → InterpolationInUnit t

/-- `PHASE` and the six calibration means stay in `(-PI, PI]` (10_state.md R30, 43_hall.md R194). -/
def Obligations.StepKeepsPhasesInRange : Prop :=
  ∀ s t : State, PhasesInRange s → step s = .next t → PhasesInRange t

/-- A standing fault keeps both validity flags clear (60_exceptions.md R262, R263). -/
def Obligations.StepKeepsFaultInvalidates : Prop :=
  ∀ s t : State, FaultInvalidates s → step s = .next t → FaultInvalidates t

/-- `CFG_DIRECTION` stays -1, 0 or +1 (10_state.md R41, 45_system.md R231). -/
def Obligations.StepKeepsDirectionLegal : Prop :=
  ∀ s t : State, DirectionLegal s → step s = .next t → DirectionLegal t

/-- `COUNT_IN_CPR` stays in `[0, cpr)` (10_state.md R51), unless the host lowers `CFG_CPR` to the count or below
(70_reset_and_hazards.md R313). -/
def Obligations.StepKeepsCountInRange : Prop :=
  ∀ s t : State, CountInRange s → (∀ v, NextWritesCpr s v → s.est.countInCpr.toInt < v.toInt) →
    step s = .next t → CountInRange t

/-- `POS_CPR_COUNTS` stays in `[0, cpr)` (10_state.md R51), unless the host lowers `CFG_CPR` to the position or below (R313); an
implementation that rebases it keeps to a `cpr` that a binary32 number holds exactly (00_scope.md R17), since beyond it the
rounding of R154 can reach `cpr` (log 31). -/
def Obligations.StepKeepsPosCprInRange : Prop :=
  ∀ s t : State, PosCprInRange s →
    (∀ v, NextWritesCpr s v → s.est.posCpr.lt (F32.ofInt v.toInt) = true) →
    s.params.circRebasePll = false ∨ s.cfg.cpr.toInt ≤ 16777216 →
    step s = .next t → PosCprInRange t

/-- The invariants hold right after reset. -/
def Obligations.InvariantsAtReset : Prop :=
  InterpolationInUnit State.reset ∧ PhasesInRange State.reset ∧ FaultInvalidates State.reset ∧
    DirectionLegal State.reset ∧ CountInRange State.reset ∧ PosCprInRange State.reset

/-- `SPIBUF_TX` is written by no operation, the receive buffer by SPI_DONE only, and the implementation's parameters by none
(20_memory.md R72, R73; 10_state.md R56). -/
def Obligations.BuffersAndParametersFixed : Prop :=
  ∀ (i : Instr) (s t : State), exec i s = .next t →
    t.spi.tx = s.spi.tx ∧ t.params = s.params ∧
      (t.spi.rx ≠ s.spi.rx → s.status.spiInflight = true ∧ ∃ ok, i = .spiDone ok t.spi.rx)

/-- The reset values the spec gives (10_state.md R55), as REG_READ shows them. -/
def Obligations.ResetValues : Prop :=
  (∀ r : Reg, holdsValue r State.reset = true → r ≠ .hwcnt →
    regContent r State.reset =
      match r with
      | .cfgHallEdge 1 => 0x3F800000
      | .cfgHallEdge 2 => 0x40000000
      | .cfgHallEdge 3 => 0x40400000
      | .cfgHallEdge 4 => 0x40800000
      | .cfgHallEdge 5 => 0x40A00000
      | .lastHallCnt => 0xFFFFFFFF
      | _ => 0) ∧
  State.reset.spi.tx = Config.absTxWord ∧ State.reset.encoderFailed = false

/-! What an operation cannot see. -/

/-- An operation's result depends on a port only where the port table says that it reads the port, in the mode in which it
reads it (10_state.md R52). -/
def Obligations.PortsReadOnlyWhereNamed : Prop :=
  ∀ (i : Instr) (s : State) (p q : Ports), PortsAgree i s p q →
    SameUpTo (fun t => { t with ports := p }) (exec i { s with ports := p }) (exec i { s with ports := q })

/-- No operation asks whether the host has written a register, but for SET_CIRCULAR_COUNT and INDEX_PULSE, which ask it of
`CFG_MODE` (10_state.md R50, log 11): every register holds a value from reset on, which is the model's choice (log 8). -/
def Obligations.WrittenBitsUnseen : Prop :=
  ∀ (i : Instr) (s : State) (w : Written),
    SameUpTo (withWritten w) (exec i (withWritten w s)) (exec i s) ∧
      (i.op ≠ .setCircularCount → i.op ≠ .indexPulse →
        SameUpTo (fun t => { t with written := w }) (exec i { s with written := w }) (exec i s))

/-! The number system (00_scope.md R13). -/

/-- Rounding is to the nearest binary32 number, ties to even: no finite pattern is nearer to `k / d` units than the result,
and where another is as near the result's last bit is 0. -/
def Obligations.RoundingIsNearestEven : Prop :=
  ∀ k d m : Nat, 0 < d → m < F32.infMag → F32.roundMag k d < F32.infMag →
    ((F32.unitsOfMag (F32.roundMag k d) * d : Int) - k).natAbs ≤ ((F32.unitsOfMag m * d : Int) - k).natAbs ∧
      (((F32.unitsOfMag (F32.roundMag k d) * d : Int) - k).natAbs = ((F32.unitsOfMag m * d : Int) - k).natAbs →
        m ≠ F32.roundMag k d → F32.roundMag k d % 2 = 0)

/-- A wrapped value lies in `(-y/2, y/2]`, for every modulus of at least one (00_scope.md R16): the modulus `cpr`, the turn
and `TWO_PI` are such. -/
def Obligations.WrapPmInHalfOpenRange : Prop :=
  ∀ x y r : F32, F32.one.le y = true → x.wrapPm y = some r →
    (y.div F32.two).negate.lt r = true ∧ r.le (y.div F32.two) = true
end

