-- ==== Sys2Proof/Laws/Float.lean ====
section
/-! SUPPORT. What the binary32 operations can do: the parts of a built number, rounding as a monotone map that fixes every
representable value, and the intervals of `fmod_pos` and `wrap_pm`. -/

namespace Sys2Proof

/-! The parts of a number built from a sign and a magnitude. -/

theorem F32.ofMag_mag (neg : Bool) (m : Nat) (h : m < 2 ^ 31) : (F32.ofMag neg m).mag = m := by
  rw [F32.mag, F32.ofMag, BitVec.setWidth_cons, BitVec.toNat_ofNat]
  exact Nat.mod_eq_of_lt h

theorem F32.ofMag_isNeg (neg : Bool) (m : Nat) : (F32.ofMag neg m).isNeg = neg := BitVec.msb_cons

theorem F32.ofMag_isNaN (neg : Bool) (m : Nat) (h : m ≤ F32.infMag) : (F32.ofMag neg m).isNaN = false := by
  have : m < 2 ^ 31 := lt_of_le_of_lt h (by decide)
  simp [F32.isNaN, F32.ofMag_mag neg m this, h]

theorem F32.ofMag_units (neg : Bool) (m : Nat) (h : m < 2 ^ 31) :
    (F32.ofMag neg m).units = if neg then -(F32.unitsOfMag m : Int) else (F32.unitsOfMag m : Int) := by
  rw [F32.units, F32.ofMag_isNeg neg m, F32.ofMag_mag neg m h]

theorem F32.mag_lt (x : F32) : x.mag < 2 ^ 31 := (x.bits.setWidth 31).isLt

/-- A number is its sign and its magnitude. -/
theorem F32.ofMag_eta (x : F32) : F32.ofMag x.isNeg x.mag = x := by
  cases x with
  | mk b =>
    show F32.mk (BitVec.cons b.msb (BitVec.ofNat 31 (b.setWidth 31).toNat)) = F32.mk b
    rw [BitVec.ofNat_toNat, BitVec.setWidth_eq, BitVec.cons_msb_setWidth]

/-! The value of a magnitude pattern. -/

theorem F32.unitsOfMag_small (m : Nat) (h : m < 2 ^ 23) : F32.unitsOfMag m = m := by
  simp only [F32.unitsOfMag, if_pos h]

/-- A pattern of a normal number: significand `a` in `[2^23, 2^24)` at quantum `2^e`. -/
theorem F32.unitsOfMag_normal (e a : Nat) (h1 : 2 ^ 23 ≤ a) (h2 : a < 2 ^ 24) :
    F32.unitsOfMag (e * 2 ^ 23 + a) = a * 2 ^ e := by
  have hm : (e * 2 ^ 23 + a) % 2 ^ 23 = a - 2 ^ 23 := by omega
  have hd : (e * 2 ^ 23 + a) / 2 ^ 23 = e + 1 := by omega
  have hn : ¬ e * 2 ^ 23 + a < 2 ^ 23 := by omega
  have hs : 2 ^ 23 + (a - 2 ^ 23) = a := by omega
  unfold F32.unitsOfMag
  rw [if_neg hn, hm, hd, hs, Nat.add_sub_cancel]

/-- Every pattern is one of the two kinds. -/
theorem F32.mag_cases (m : Nat) : m < 2 ^ 23 ∨ ∃ e a, 2 ^ 23 ≤ a ∧ a < 2 ^ 24 ∧ m = e * 2 ^ 23 + a := by
  by_cases h : m < 2 ^ 23
  · exact .inl h
  · refine .inr ⟨m / 2 ^ 23 - 1, 2 ^ 23 + m % 2 ^ 23, ?_, ?_, ?_⟩ <;> omega

/-- Patterns order as their values. -/
theorem F32.unitsOfMag_strictMono : StrictMono F32.unitsOfMag := by
  apply strictMono_nat_of_lt_succ
  intro m
  rcases F32.mag_cases m with h | ⟨e, a, h1, h2, rfl⟩
  · rw [F32.unitsOfMag_small m h]
    by_cases h' : m + 1 < 2 ^ 23
    · rw [F32.unitsOfMag_small _ h']; omega
    · have : m + 1 = 0 * 2 ^ 23 + 2 ^ 23 := by omega
      rw [this, F32.unitsOfMag_normal 0 (2 ^ 23) (by omega) (by omega)]; omega
  · rw [F32.unitsOfMag_normal e a h1 h2]
    by_cases h' : a + 1 < 2 ^ 24
    · rw [show e * 2 ^ 23 + a + 1 = e * 2 ^ 23 + (a + 1) by ring,
        F32.unitsOfMag_normal e (a + 1) (by omega) h']
      exact Nat.mul_lt_mul_of_pos_right (by omega) (by positivity)
    · have : e * 2 ^ 23 + a + 1 = (e + 1) * 2 ^ 23 + 2 ^ 23 := by omega
      rw [this, F32.unitsOfMag_normal (e + 1) (2 ^ 23) (by omega) (by omega)]
      have : a = 2 ^ 24 - 1 := by omega
      subst this
      rw [show 2 ^ 23 * 2 ^ (e + 1) = 2 ^ 24 * 2 ^ e by ring]
      exact Nat.mul_lt_mul_of_pos_right (by omega) (by positivity)

theorem F32.unitsOfMag_le_iff (m n : Nat) : F32.unitsOfMag m ≤ F32.unitsOfMag n ↔ m ≤ n :=
  F32.unitsOfMag_strictMono.le_iff_le

/-! Rounding. -/

theorem roundDiv_mono (n n' d : Nat) (hd : 0 < d) (h : n ≤ n') : roundDiv n d ≤ roundDiv n' d := by
  have e1 := Nat.div_add_mod n d
  have e2 := Nat.div_add_mod n' d
  have l1 := Nat.mod_lt n hd
  have l2 := Nat.mod_lt n' hd
  have hq : n / d ≤ n' / d := Nat.div_le_div_right h
  unfold roundDiv
  rcases Nat.lt_or_ge (n / d) (n' / d) with hlt | hge
  · split <;> split <;> omega
  · have heq : n / d = n' / d := le_antisymm hq hge
    rw [heq] at e1
    have : n % d ≤ n' % d := by omega
    split <;> split <;> omega

theorem roundDiv_exact (q d : Nat) (hd : 0 < d) : roundDiv (q * d) d = q := by
  unfold roundDiv
  rw [Nat.mul_mod_left, Nat.mul_div_cancel _ hd]
  rw [if_neg]; omega

theorem roundDiv_le (n d q : Nat) (hd : 0 < d) (h : n ≤ q * d) : roundDiv n d ≤ q := by
  calc roundDiv n d ≤ roundDiv (q * d) d := roundDiv_mono _ _ _ hd h
    _ = q := roundDiv_exact q d hd

theorem le_roundDiv (n d q : Nat) (hd : 0 < d) (h : q * d ≤ n) : q ≤ roundDiv n d := by
  calc q = roundDiv (q * d) d := (roundDiv_exact q d hd).symm
    _ ≤ roundDiv n d := roundDiv_mono _ _ _ hd h

theorem F32.roundMag_le_inf (n d : Nat) : F32.roundMag n d ≤ F32.infMag := min_le_right _ _

theorem F32.roundMag_lt (n d : Nat) : F32.roundMag n d < 2 ^ 31 :=
  lt_of_le_of_lt (F32.roundMag_le_inf n d) (by decide)

/-- The pattern before the overflow's `min`. -/
def F32.roundPattern (n d : Nat) : Nat :=
  (Nat.log2 (n / d) - 23) * 2 ^ 23 + roundDiv n (d * 2 ^ (Nat.log2 (n / d) - 23))

theorem F32.roundMag_eq (n d : Nat) : F32.roundMag n d = min (F32.roundPattern n d) F32.infMag := rfl

theorem F32.quantum_upper (n d : Nat) (hd : 0 < d) : n ≤ 2 ^ 24 * (d * 2 ^ (Nat.log2 (n / d) - 23)) := by
  have h1 : n / d < 2 ^ (Nat.log2 (n / d) + 1) := Nat.lt_log2_self
  have h2 : n < d * 2 ^ (Nat.log2 (n / d) + 1) := by
    rw [mul_comm]; exact (Nat.div_lt_iff_lt_mul hd).mp h1
  have h3 : Nat.log2 (n / d) + 1 ≤ 24 + (Nat.log2 (n / d) - 23) := by omega
  have h4 : 2 ^ (Nat.log2 (n / d) + 1) ≤ 2 ^ 24 * 2 ^ (Nat.log2 (n / d) - 23) := by
    rw [← pow_add]; exact Nat.pow_le_pow_right (by omega) h3
  calc n ≤ d * 2 ^ (Nat.log2 (n / d) + 1) := h2.le
    _ ≤ d * (2 ^ 24 * 2 ^ (Nat.log2 (n / d) - 23)) := Nat.mul_le_mul_left d h4
    _ = _ := by ring

theorem F32.quantum_lower (n d : Nat) (h : 23 ≤ Nat.log2 (n / d)) :
    2 ^ 23 * (d * 2 ^ (Nat.log2 (n / d) - 23)) ≤ n := by
  have hne : n / d ≠ 0 := by
    intro h0; rw [h0] at h; simp [Nat.log2_zero] at h
  have h1 : 2 ^ Nat.log2 (n / d) ≤ n / d := Nat.log2_self_le hne
  have h2 : 2 ^ 23 * 2 ^ (Nat.log2 (n / d) - 23) = 2 ^ Nat.log2 (n / d) := by
    rw [← pow_add]; congr 1; omega
  calc 2 ^ 23 * (d * 2 ^ (Nat.log2 (n / d) - 23)) = d * 2 ^ Nat.log2 (n / d) := by rw [← h2]; ring
    _ ≤ d * (n / d) := Nat.mul_le_mul_left d h1
    _ ≤ n := Nat.mul_div_le n d

/-- Rounding keeps order. -/
theorem F32.roundPattern_mono (n n' d : Nat) (hd : 0 < d) (h : n ≤ n') :
    F32.roundPattern n d ≤ F32.roundPattern n' d := by
  unfold F32.roundPattern
  have hq : n / d ≤ n' / d := Nat.div_le_div_right h
  have hl : Nat.log2 (n / d) ≤ Nat.log2 (n' / d) := by
    rcases Nat.eq_zero_or_pos (n / d) with h0 | hp
    · rw [h0]; simp [Nat.log2_zero]
    · exact (Nat.le_log2 (by omega)).mpr (le_trans (Nat.log2_self_le (by omega)) hq)
  have hpos : 0 < d * 2 ^ (Nat.log2 (n' / d) - 23) := by positivity
  rcases Nat.eq_or_lt_of_le (show Nat.log2 (n / d) - 23 ≤ Nat.log2 (n' / d) - 23 by omega) with he | he
  · rw [he]
    exact Nat.add_le_add_left (roundDiv_mono _ _ _ hpos h) _
  · have hpos1 : 0 < d * 2 ^ (Nat.log2 (n / d) - 23) := by positivity
    have u := roundDiv_le n _ (2 ^ 24) hpos1 (F32.quantum_upper n d hd)
    have l := le_roundDiv n' _ (2 ^ 23) hpos (F32.quantum_lower n' d (by omega))
    omega

theorem F32.roundMag_mono (n n' d : Nat) (hd : 0 < d) (h : n ≤ n') :
    F32.roundMag n d ≤ F32.roundMag n' d :=
  min_le_min_right _ (F32.roundPattern_mono n n' d hd h)

theorem F32.log2_eq (k n : Nat) (h1 : 2 ^ k ≤ n) (h2 : n < 2 ^ (k + 1)) : Nat.log2 n = k := by
  have hn : n ≠ 0 := by have : 0 < 2 ^ k := by positivity
                        omega
  exact (Nat.log2_eq_iff hn).mpr ⟨h1, h2⟩

/-- A representable value is its own rounding (00_scope.md R17). -/
theorem F32.roundPattern_exact (m d : Nat) (hd : 0 < d) : F32.roundPattern (F32.unitsOfMag m * d) d = m := by
  have hdiv : F32.unitsOfMag m * d / d = F32.unitsOfMag m := Nat.mul_div_cancel _ hd
  unfold F32.roundPattern
  rw [hdiv]
  rcases F32.mag_cases m with h | ⟨e, a, h1, h2, rfl⟩
  · rw [F32.unitsOfMag_small m h]
    have hl : Nat.log2 m - 23 = 0 := by
      rcases Nat.eq_zero_or_pos m with h0 | hp
      · rw [h0]; simp [Nat.log2_zero]
      · have := (Nat.log2_lt (by omega)).mpr h; omega
    rw [hl]
    simp only [Nat.zero_mul, pow_zero, mul_one, Nat.zero_add]
    exact roundDiv_exact m d hd
  · rw [F32.unitsOfMag_normal e a h1 h2]
    have hl : Nat.log2 (a * 2 ^ e) = 23 + e := by
      apply F32.log2_eq
      · rw [pow_add]; exact Nat.mul_le_mul_right _ h1
      · rw [show 23 + e + 1 = 24 + e by ring, pow_add]
        exact Nat.mul_lt_mul_of_pos_right h2 (by positivity)
    rw [hl, show 23 + e - 23 = e by omega, show a * 2 ^ e * d = a * (d * 2 ^ e) by ring,
      roundDiv_exact a _ (by positivity)]

theorem F32.roundMag_exact (m d : Nat) (hd : 0 < d) (h : m ≤ F32.infMag) :
    F32.roundMag (F32.unitsOfMag m * d) d = m := by
  rw [F32.roundMag_eq, F32.roundPattern_exact m d hd, min_eq_left h]

/-- A value no greater than a representable one rounds to no greater a pattern. -/
theorem F32.roundMag_le (n d m : Nat) (hd : 0 < d) (h : n ≤ F32.unitsOfMag m * d) : F32.roundMag n d ≤ m := by
  rw [F32.roundMag_eq]
  refine le_trans (min_le_left _ _) ?_
  rw [← F32.roundPattern_exact m d hd]
  exact F32.roundPattern_mono _ _ _ hd h

theorem F32.le_roundMag (n d m : Nat) (hd : 0 < d) (hm : m ≤ F32.infMag) (h : F32.unitsOfMag m * d ≤ n) :
    m ≤ F32.roundMag n d := by
  rw [← F32.roundMag_exact m d hd hm]
  exact F32.roundMag_mono _ _ _ hd h

/-! Comparisons. -/

theorem F32.lt_iff (x y : F32) :
    x.lt y = true ↔ x.isNaN = false ∧ y.isNaN = false ∧ x.units < y.units := by
  unfold F32.lt F32.key
  cases x.isNaN <;> cases y.isNaN <;> simp

theorem F32.le_iff (x y : F32) :
    x.le y = true ↔ x.isNaN = false ∧ y.isNaN = false ∧ x.units ≤ y.units := by
  unfold F32.le F32.key
  cases x.isNaN <;> cases y.isNaN <;> simp

theorem F32.zero_units : F32.zero.units = 0 := by decide

theorem F32.zero_isNaN : F32.zero.isNaN = false := by decide

theorem F32.isFinite_not_isNaN (x : F32) (h : x.isFinite = true) : x.isNaN = false := by
  simp only [F32.isFinite, decide_eq_true_eq] at h
  simp only [F32.isNaN, Bool.not_eq_false', decide_eq_true_eq]
  omega

/-! The number nearest to a count of units. -/

theorem F32.ofUnits_isNaN (k : Int) (d : Nat) : (F32.ofUnits k d).isNaN = false :=
  F32.ofMag_isNaN _ _ (F32.roundMag_le_inf _ _)

theorem F32.ofUnits_units (k : Int) (d : Nat) :
    (F32.ofUnits k d).units =
      if k < 0 then -(F32.unitsOfMag (F32.roundMag k.natAbs d) : Int)
      else (F32.unitsOfMag (F32.roundMag k.natAbs d) : Int) := by
  rw [F32.ofUnits, F32.ofMag_units _ _ (F32.roundMag_lt _ _)]
  simp

/-- The units of a finite number round to it, but for the sign of a zero. -/
theorem F32.ofUnits_units_exact (x : F32) (h : x.isFinite = true) : (F32.ofUnits x.units 1).units = x.units := by
  have hm : x.mag ≤ F32.infMag := by
    simp only [F32.isFinite, decide_eq_true_eq] at h; omega
  have hn : x.units.natAbs = F32.unitsOfMag x.mag := by
    unfold F32.units; split <;> simp
  have hr := F32.roundMag_exact x.mag 1 (by decide) hm
  rw [mul_one] at hr
  rw [F32.ofUnits_units, hn, hr]
  by_cases hs : x.isNeg = true
  · have e : x.units = -(F32.unitsOfMag x.mag : Int) := by rw [F32.units, if_pos hs]
    rw [e]
    split
    · rfl
    · omega
  · have e : x.units = (F32.unitsOfMag x.mag : Int) := by rw [F32.units, if_neg hs]
    rw [e, if_neg (by omega)]

/-- Rounding a count of units keeps order. -/
theorem F32.ofUnits_mono (a b : Int) (h : a ≤ b) : (F32.ofUnits a 1).units ≤ (F32.ofUnits b 1).units := by
  have key : ∀ m n : Nat, m ≤ n →
      F32.unitsOfMag (F32.roundMag m 1) ≤ F32.unitsOfMag (F32.roundMag n 1) := fun m n hmn =>
    (F32.unitsOfMag_le_iff _ _).mpr (F32.roundMag_mono m n 1 (by decide) hmn)
  rw [F32.ofUnits_units, F32.ofUnits_units]
  by_cases ha : a < 0 <;> by_cases hb : b < 0
  · rw [if_pos ha, if_pos hb]
    have := key b.natAbs a.natAbs (by omega)
    omega
  · rw [if_pos ha, if_neg hb]; omega
  · omega
  · rw [if_neg ha, if_neg hb]
    have := key a.natAbs b.natAbs (by omega)
    omega

/-! `f32(i)`. -/

/-- `f32(i)` is exact for `|i| <= 2^24` (00_scope.md R17): such an integer is a pattern's value. -/
theorem F32.int_representable (n : Nat) (h : n ≤ 2 ^ 24) :
    ∃ m, m < F32.infMag ∧ F32.unitsOfMag m = n * 2 ^ 149 := by
  rcases Nat.eq_zero_or_pos n with h0 | hp
  · exact ⟨0, by decide, by rw [h0]; decide⟩
  · have hl : Nat.log2 n ≤ 24 := by
      by_contra hc
      have h1 : 2 ^ Nat.log2 n ≤ n := Nat.log2_self_le (by omega)
      have h2 : 2 ^ 25 ≤ 2 ^ Nat.log2 n := Nat.pow_le_pow_right (by omega) (by omega)
      omega
    have h1 : 2 ^ Nat.log2 n ≤ n := Nat.log2_self_le (by omega)
    have h2 : n < 2 ^ (Nat.log2 n + 1) := Nat.lt_log2_self
    generalize Nat.log2 n = k at *
    by_cases hk : k = 24
    · subst hk
      have hn : n = 2 ^ 24 := by omega
      refine ⟨150 * 2 ^ 23 + 2 ^ 23, by decide, ?_⟩
      rw [F32.unitsOfMag_normal 150 (2 ^ 23) (by omega) (by omega), hn]
      norm_num
    · have hk' : k ≤ 23 := by omega
      have e1 : 2 ^ k * 2 ^ (23 - k) = 2 ^ 23 := by rw [← pow_add]; congr 1; omega
      have e2 : 2 ^ (k + 1) * 2 ^ (23 - k) = 2 ^ 24 := by rw [← pow_add]; congr 1; omega
      have a1 : 2 ^ 23 ≤ n * 2 ^ (23 - k) := by rw [← e1]; exact Nat.mul_le_mul_right _ h1
      have a2 : n * 2 ^ (23 - k) < 2 ^ 24 := by
        rw [← e2]; exact Nat.mul_lt_mul_of_pos_right h2 (by positivity)
      refine ⟨(126 + k) * 2 ^ 23 + n * 2 ^ (23 - k), ?_, ?_⟩
      · have : F32.infMag = 255 * 2 ^ 23 := by decide
        omega
      · rw [F32.unitsOfMag_normal _ _ a1 a2, mul_assoc, ← pow_add]
        congr 2
        omega

theorem F32.ofInt_isNaN (i : Int) : (F32.ofInt i).isNaN = false := F32.ofUnits_isNaN _ _

theorem F32.ofInt_mono (i j : Int) (h : i ≤ j) : (F32.ofInt i).units ≤ (F32.ofInt j).units :=
  F32.ofUnits_mono _ _ (Int.mul_le_mul_of_nonneg_right h (by decide))

/-! `fmod_pos` and `wrap_pm`. -/

/-- Where `fmod_pos` gives a number at all it lies in `[0, y)` (00_scope.md R15). -/
theorem F32.fmodPos_range (x y : F32) (h : (x.fmodPos y).isNaN = false) :
    F32.zero.le (x.fmodPos y) = true ∧ (x.fmodPos y).lt y = true := by
  unfold F32.fmodPos at h ⊢
  split at h
  · rename_i hc
    simp only [Bool.and_eq_true] at hc
    obtain ⟨⟨hx, hy⟩, hpos⟩ := hc
    rw [if_pos (by simp [hx, hy, hpos])]
    have hyp := (F32.lt_iff _ _).mp hpos
    rw [F32.zero_units] at hyp
    split
    · exact ⟨by decide, hpos⟩
    · rename_i hlt
      have hnn := F32.ofUnits_isNaN (x.units % y.units) 1
      have hr : 0 ≤ x.units % y.units := Int.emod_nonneg _ (by omega)
      refine ⟨(F32.le_iff _ _).mpr ⟨F32.zero_isNaN, hnn, ?_⟩, (F32.lt_iff _ _).mpr ⟨hnn, hyp.2.1, ?_⟩⟩
      · rw [F32.zero_units, F32.ofUnits_units, if_neg (by omega)]; omega
      · by_contra hc
        exact hlt ((F32.le_iff _ _).mpr ⟨hyp.2.1, hnn, by omega⟩)
  · exact absurd h (by decide)

/-- `fmod_pos` gives a number exactly where both operands are finite and the modulus is positive. -/
theorem F32.fmodPos_isNaN (x y : F32) (hx : x.isFinite = true) (hy : y.isFinite = true)
    (hp : F32.zero.lt y = true) : (x.fmodPos y).isNaN = false := by
  unfold F32.fmodPos
  rw [if_pos (by simp [hx, hy, hp])]
  split
  · decide
  · exact F32.ofUnits_isNaN _ _

theorem centered_bounds (a n : Int) (hn : 0 < n) : -n < 2 * centered a n ∧ 2 * centered a n ≤ n := by
  have h1 := Int.emod_nonneg a (show n ≠ 0 by omega)
  have h2 := Int.emod_lt_of_pos a hn
  unfold centered
  split <;> omega

/-- A wrapped phase lies in `(-PI, PI]` (00_scope.md R16). -/
theorem F32.wrapPm_twoPi_range (x r : F32) (h : x.wrapPm F32.twoPi = some r) :
    F32.pi.negate.lt r = true ∧ r.le F32.pi = true := by
  have hhalf : F32.twoPi.div F32.two = F32.pi := by decide
  unfold F32.wrapPm at h
  split at h
  · rw [hhalf] at h
    split at h
    · obtain rfl := Option.some.inj h
      decide
    · rename_i hlow
      obtain rfl := Option.some.inj h
      have hb := centered_bounds x.units F32.twoPi.units (by decide)
      have hnn := F32.ofUnits_isNaN (centered x.units F32.twoPi.units) 1
      have hup : (F32.ofUnits (centered x.units F32.twoPi.units) 1).units ≤ F32.pi.units := by
        rw [← F32.ofUnits_units_exact F32.pi (by decide)]
        apply F32.ofUnits_mono
        have : F32.twoPi.units = 2 * F32.pi.units := by decide
        omega
      refine ⟨(F32.lt_iff _ _).mpr ⟨by decide, hnn, ?_⟩, (F32.le_iff _ _).mpr ⟨hnn, by decide, hup⟩⟩
      by_contra hc
      exact hlow ((F32.le_iff _ _).mpr ⟨hnn, by decide, by omega⟩)
  · exact absurd h (by simp)

/-- `wrap_pm` gives a number only for a finite argument (42_pll.md R177). -/
theorem F32.wrapPm_some_isFinite (x y r : F32) (h : x.wrapPm y = some r) : x.isFinite = true := by
  unfold F32.wrapPm at h
  split at h
  · rename_i hc
    simp only [Bool.and_eq_true] at hc
    exact hc.1.1
  · exact absurd h (by simp)

/-! NaNs travel through the operators (42_pll.md R177). -/

theorem F32.add_isNaN_left (x y : F32) (h : x.isNaN = true) : (x.add y).isNaN = true := by
  rw [F32.add, h, Bool.true_or, if_pos rfl]; decide

theorem F32.sub_isNaN_left (x y : F32) (h : x.isNaN = true) : (x.sub y).isNaN = true :=
  F32.add_isNaN_left _ _ h

theorem F32.mul_isNaN_left (x y : F32) (h : x.isNaN = true) : (x.mul y).isNaN = true := by
  rw [F32.mul, h, Bool.true_or, if_pos rfl]; decide

theorem F32.div_isNaN_left (x y : F32) (h : x.isNaN = true) : (x.div y).isNaN = true := by
  rw [F32.div, h, Bool.true_or, if_pos rfl]; decide

/-! A value in `[-2^31, 2^31)`. -/

theorem within32_some (i c : Int) (h : within32 i = some c) :
    c = i ∧ -2147483648 ≤ i ∧ i < 2147483648 := by
  unfold within32 at h
  split at h
  · exact ⟨(Option.some.inj h).symm, by assumption⟩
  · exact absurd h (by simp)

end Sys2Proof
end

