-- ==== Sys2Proof/Laws/State.lean ====
section
/-! SUPPORT. One lemma per field of State per named update, true by unfolding, so that no proof unfolds a record update. -/

namespace Sys2Proof.Machine

/-! `finish` -/

@[simp] theorem finish_cfg (r : OpResult) (s : State) :
    (finish r s).cfg = s.cfg := rfl
@[simp] theorem finish_plat (r : OpResult) (s : State) :
    (finish r s).plat = s.plat := rfl
@[simp] theorem finish_written (r : OpResult) (s : State) :
    (finish r s).written = s.written := rfl
@[simp] theorem finish_est (r : OpResult) (s : State) :
    (finish r s).est = s.est := rfl
@[simp] theorem finish_raw (r : OpResult) (s : State) :
    (finish r s).raw = s.raw := rfl
@[simp] theorem finish_spi (r : OpResult) (s : State) :
    (finish r s).spi = s.spi := rfl
@[simp] theorem finish_hwcnt (r : OpResult) (s : State) :
    (finish r s).hwcnt = s.hwcnt := rfl
@[simp] theorem finish_status (r : OpResult) (s : State) :
    (finish r s).status = s.status := rfl
@[simp] theorem finish_isReady (r : OpResult) (s : State) :
    (finish r s).isReady = s.isReady := rfl
@[simp] theorem finish_indexFound (r : OpResult) (s : State) :
    (finish r s).indexFound = s.indexFound := rfl
@[simp] theorem finish_hallPolarityCalibrated (r : OpResult) (s : State) :
    (finish r s).hallPolarityCalibrated = s.hallPolarityCalibrated := rfl
@[simp] theorem finish_error (r : OpResult) (s : State) :
    (finish r s).error = s.error := rfl
@[simp] theorem finish_hallCal (r : OpResult) (s : State) :
    (finish r s).hallCal = s.hallCal := rfl
@[simp] theorem finish_params (r : OpResult) (s : State) :
    (finish r s).params = s.params := rfl
@[simp] theorem finish_ports (r : OpResult) (s : State) :
    (finish r s).ports = s.ports := rfl
@[simp] theorem finish_pending (r : OpResult) (s : State) :
    (finish r s).pending = s.pending := rfl
@[simp] theorem finish_out (r : OpResult) (s : State) :
    (finish r s).out = Outputs.plain r := rfl
@[simp] theorem finish_draws (r : OpResult) (s : State) :
    (finish r s).draws = s.draws := rfl

/-! `raiseFault` -/

@[simp] theorem raiseFault_cfg (k : FaultKind) (s : State) :
    (raiseFault k s).cfg = s.cfg := rfl
@[simp] theorem raiseFault_plat (k : FaultKind) (s : State) :
    (raiseFault k s).plat = s.plat := rfl
@[simp] theorem raiseFault_written (k : FaultKind) (s : State) :
    (raiseFault k s).written = s.written := rfl
@[simp] theorem raiseFault_est (k : FaultKind) (s : State) :
    (raiseFault k s).est = s.est := rfl
@[simp] theorem raiseFault_raw (k : FaultKind) (s : State) :
    (raiseFault k s).raw = s.raw := rfl
@[simp] theorem raiseFault_spi (k : FaultKind) (s : State) :
    (raiseFault k s).spi = s.spi := rfl
@[simp] theorem raiseFault_hwcnt (k : FaultKind) (s : State) :
    (raiseFault k s).hwcnt = s.hwcnt := rfl
@[simp] theorem raiseFault_status (k : FaultKind) (s : State) :
    (raiseFault k s).status = { s.status with posValid := false, velValid := false } := rfl
@[simp] theorem raiseFault_isReady (k : FaultKind) (s : State) :
    (raiseFault k s).isReady = readyAfterFault s.params k s.isReady := rfl
@[simp] theorem raiseFault_indexFound (k : FaultKind) (s : State) :
    (raiseFault k s).indexFound = s.indexFound := rfl
@[simp] theorem raiseFault_hallPolarityCalibrated (k : FaultKind) (s : State) :
    (raiseFault k s).hallPolarityCalibrated = s.hallPolarityCalibrated := rfl
@[simp] theorem raiseFault_error (k : FaultKind) (s : State) :
    (raiseFault k s).error = s.error ||| faultMask k := rfl
@[simp] theorem raiseFault_hallCal (k : FaultKind) (s : State) :
    (raiseFault k s).hallCal = s.hallCal := rfl
@[simp] theorem raiseFault_params (k : FaultKind) (s : State) :
    (raiseFault k s).params = s.params := rfl
@[simp] theorem raiseFault_ports (k : FaultKind) (s : State) :
    (raiseFault k s).ports = s.ports := rfl
@[simp] theorem raiseFault_pending (k : FaultKind) (s : State) :
    (raiseFault k s).pending = s.pending := rfl
@[simp] theorem raiseFault_out (k : FaultKind) (s : State) :
    (raiseFault k s).out = s.out := rfl
@[simp] theorem raiseFault_draws (k : FaultKind) (s : State) :
    (raiseFault k s).draws = s.draws := rfl

/-! `writeLinear` -/

@[simp] theorem writeLinear_cfg (n : Word) (s : State) :
    (writeLinear n s).cfg = s.cfg := rfl
@[simp] theorem writeLinear_plat (n : Word) (s : State) :
    (writeLinear n s).plat = s.plat := rfl
@[simp] theorem writeLinear_written (n : Word) (s : State) :
    (writeLinear n s).written = s.written := rfl
@[simp] theorem writeLinear_est (n : Word) (s : State) :
    (writeLinear n s).est = { s.est with shadowCount := n, posEstimate := f32OfWord n } := rfl
@[simp] theorem writeLinear_raw (n : Word) (s : State) :
    (writeLinear n s).raw = s.raw := rfl
@[simp] theorem writeLinear_spi (n : Word) (s : State) :
    (writeLinear n s).spi = s.spi := rfl
@[simp] theorem writeLinear_hwcnt (n : Word) (s : State) :
    (writeLinear n s).hwcnt = low16 n := rfl
@[simp] theorem writeLinear_status (n : Word) (s : State) :
    (writeLinear n s).status = s.status := rfl
@[simp] theorem writeLinear_isReady (n : Word) (s : State) :
    (writeLinear n s).isReady = s.isReady := rfl
@[simp] theorem writeLinear_indexFound (n : Word) (s : State) :
    (writeLinear n s).indexFound = s.indexFound := rfl
@[simp] theorem writeLinear_hallPolarityCalibrated (n : Word) (s : State) :
    (writeLinear n s).hallPolarityCalibrated = s.hallPolarityCalibrated := rfl
@[simp] theorem writeLinear_error (n : Word) (s : State) :
    (writeLinear n s).error = s.error := rfl
@[simp] theorem writeLinear_hallCal (n : Word) (s : State) :
    (writeLinear n s).hallCal = s.hallCal := rfl
@[simp] theorem writeLinear_params (n : Word) (s : State) :
    (writeLinear n s).params = s.params := rfl
@[simp] theorem writeLinear_ports (n : Word) (s : State) :
    (writeLinear n s).ports = s.ports := rfl
@[simp] theorem writeLinear_pending (n : Word) (s : State) :
    (writeLinear n s).pending = s.pending := rfl
@[simp] theorem writeLinear_out (n : Word) (s : State) :
    (writeLinear n s).out = s.out := rfl
@[simp] theorem writeLinear_draws (n : Word) (s : State) :
    (writeLinear n s).draws = s.draws := rfl

/-! `writeCircular` -/

@[simp] theorem writeCircular_cfg (n : Int) (u : Bool) (s : State) :
    (writeCircular n u s).cfg = { s.cfg with phaseOffset := if u then shiftedOffset (circularCount n s) s else s.cfg.phaseOffset } := rfl
@[simp] theorem writeCircular_plat (n : Int) (u : Bool) (s : State) :
    (writeCircular n u s).plat = s.plat := rfl
@[simp] theorem writeCircular_written (n : Int) (u : Bool) (s : State) :
    (writeCircular n u s).written = s.written := rfl
@[simp] theorem writeCircular_est (n : Int) (u : Bool) (s : State) :
    (writeCircular n u s).est = { s.est with countInCpr := wrap32 (circularCount n s), posCpr := if s.params.circRebasePll then F32.ofInt (circularCount n s) else s.est.posCpr } := rfl
@[simp] theorem writeCircular_raw (n : Int) (u : Bool) (s : State) :
    (writeCircular n u s).raw = s.raw := rfl
@[simp] theorem writeCircular_spi (n : Int) (u : Bool) (s : State) :
    (writeCircular n u s).spi = s.spi := rfl
@[simp] theorem writeCircular_hwcnt (n : Int) (u : Bool) (s : State) :
    (writeCircular n u s).hwcnt = s.hwcnt := rfl
@[simp] theorem writeCircular_status (n : Int) (u : Bool) (s : State) :
    (writeCircular n u s).status = s.status := rfl
@[simp] theorem writeCircular_isReady (n : Int) (u : Bool) (s : State) :
    (writeCircular n u s).isReady = s.isReady := rfl
@[simp] theorem writeCircular_indexFound (n : Int) (u : Bool) (s : State) :
    (writeCircular n u s).indexFound = s.indexFound := rfl
@[simp] theorem writeCircular_hallPolarityCalibrated (n : Int) (u : Bool) (s : State) :
    (writeCircular n u s).hallPolarityCalibrated = s.hallPolarityCalibrated := rfl
@[simp] theorem writeCircular_error (n : Int) (u : Bool) (s : State) :
    (writeCircular n u s).error = s.error := rfl
@[simp] theorem writeCircular_hallCal (n : Int) (u : Bool) (s : State) :
    (writeCircular n u s).hallCal = s.hallCal := rfl
@[simp] theorem writeCircular_params (n : Int) (u : Bool) (s : State) :
    (writeCircular n u s).params = s.params := rfl
@[simp] theorem writeCircular_ports (n : Int) (u : Bool) (s : State) :
    (writeCircular n u s).ports = s.ports := rfl
@[simp] theorem writeCircular_pending (n : Int) (u : Bool) (s : State) :
    (writeCircular n u s).pending = s.pending := rfl
@[simp] theorem writeCircular_out (n : Int) (u : Bool) (s : State) :
    (writeCircular n u s).out = s.out := rfl
@[simp] theorem writeCircular_draws (n : Int) (u : Bool) (s : State) :
    (writeCircular n u s).draws = s.draws := rfl

/-! `releaseSpi` -/

@[simp] theorem releaseSpi_cfg (frame : BitVec 16) (s : State) :
    (releaseSpi frame s).cfg = s.cfg := rfl
@[simp] theorem releaseSpi_plat (frame : BitVec 16) (s : State) :
    (releaseSpi frame s).plat = s.plat := rfl
@[simp] theorem releaseSpi_written (frame : BitVec 16) (s : State) :
    (releaseSpi frame s).written = s.written := rfl
@[simp] theorem releaseSpi_est (frame : BitVec 16) (s : State) :
    (releaseSpi frame s).est = s.est := rfl
@[simp] theorem releaseSpi_raw (frame : BitVec 16) (s : State) :
    (releaseSpi frame s).raw = s.raw := rfl
@[simp] theorem releaseSpi_spi (frame : BitVec 16) (s : State) :
    (releaseSpi frame s).spi = { s.spi with rx := frame } := rfl
@[simp] theorem releaseSpi_hwcnt (frame : BitVec 16) (s : State) :
    (releaseSpi frame s).hwcnt = s.hwcnt := rfl
@[simp] theorem releaseSpi_status (frame : BitVec 16) (s : State) :
    (releaseSpi frame s).status = { s.status with spiInflight := false } := rfl
@[simp] theorem releaseSpi_isReady (frame : BitVec 16) (s : State) :
    (releaseSpi frame s).isReady = s.isReady := rfl
@[simp] theorem releaseSpi_indexFound (frame : BitVec 16) (s : State) :
    (releaseSpi frame s).indexFound = s.indexFound := rfl
@[simp] theorem releaseSpi_hallPolarityCalibrated (frame : BitVec 16) (s : State) :
    (releaseSpi frame s).hallPolarityCalibrated = s.hallPolarityCalibrated := rfl
@[simp] theorem releaseSpi_error (frame : BitVec 16) (s : State) :
    (releaseSpi frame s).error = s.error := rfl
@[simp] theorem releaseSpi_hallCal (frame : BitVec 16) (s : State) :
    (releaseSpi frame s).hallCal = s.hallCal := rfl
@[simp] theorem releaseSpi_params (frame : BitVec 16) (s : State) :
    (releaseSpi frame s).params = s.params := rfl
@[simp] theorem releaseSpi_ports (frame : BitVec 16) (s : State) :
    (releaseSpi frame s).ports = s.ports := rfl
@[simp] theorem releaseSpi_pending (frame : BitVec 16) (s : State) :
    (releaseSpi frame s).pending = s.pending := rfl
@[simp] theorem releaseSpi_out (frame : BitVec 16) (s : State) :
    (releaseSpi frame s).out = s.out := rfl
@[simp] theorem releaseSpi_draws (frame : BitVec 16) (s : State) :
    (releaseSpi frame s).draws = s.draws := rfl

/-! `loadHall` -/

@[simp] theorem loadHall_cfg (s : State) :
    (loadHall s).cfg = s.cfg := rfl
@[simp] theorem loadHall_plat (s : State) :
    (loadHall s).plat = s.plat := rfl
@[simp] theorem loadHall_written (s : State) :
    (loadHall s).written = s.written := rfl
@[simp] theorem loadHall_est (s : State) :
    (loadHall s).est = s.est := rfl
@[simp] theorem loadHall_raw (s : State) :
    (loadHall s).raw = { s.raw with hallState := s.ports.hallSnapshot } := rfl
@[simp] theorem loadHall_spi (s : State) :
    (loadHall s).spi = s.spi := rfl
@[simp] theorem loadHall_hwcnt (s : State) :
    (loadHall s).hwcnt = s.hwcnt := rfl
@[simp] theorem loadHall_status (s : State) :
    (loadHall s).status = s.status := rfl
@[simp] theorem loadHall_isReady (s : State) :
    (loadHall s).isReady = s.isReady := rfl
@[simp] theorem loadHall_indexFound (s : State) :
    (loadHall s).indexFound = s.indexFound := rfl
@[simp] theorem loadHall_hallPolarityCalibrated (s : State) :
    (loadHall s).hallPolarityCalibrated = s.hallPolarityCalibrated := rfl
@[simp] theorem loadHall_error (s : State) :
    (loadHall s).error = s.error := rfl
@[simp] theorem loadHall_hallCal (s : State) :
    (loadHall s).hallCal = s.hallCal := rfl
@[simp] theorem loadHall_params (s : State) :
    (loadHall s).params = s.params := rfl
@[simp] theorem loadHall_ports (s : State) :
    (loadHall s).ports = s.ports := rfl
@[simp] theorem loadHall_pending (s : State) :
    (loadHall s).pending = s.pending := rfl
@[simp] theorem loadHall_out (s : State) :
    (loadHall s).out = s.out := rfl
@[simp] theorem loadHall_draws (s : State) :
    (loadHall s).draws = s.draws := rfl

/-! `recordHall` -/

@[simp] theorem recordHall_cfg (h : Fin 6) (s : State) :
    (recordHall h s).cfg = s.cfg := rfl
@[simp] theorem recordHall_plat (h : Fin 6) (s : State) :
    (recordHall h s).plat = s.plat := rfl
@[simp] theorem recordHall_written (h : Fin 6) (s : State) :
    (recordHall h s).written = s.written := rfl
@[simp] theorem recordHall_est (h : Fin 6) (s : State) :
    (recordHall h s).est = s.est := rfl
@[simp] theorem recordHall_raw (h : Fin 6) (s : State) :
    (recordHall h s).raw = s.raw := rfl
@[simp] theorem recordHall_spi (h : Fin 6) (s : State) :
    (recordHall h s).spi = s.spi := rfl
@[simp] theorem recordHall_hwcnt (h : Fin 6) (s : State) :
    (recordHall h s).hwcnt = s.hwcnt := rfl
@[simp] theorem recordHall_status (h : Fin 6) (s : State) :
    (recordHall h s).status = s.status := rfl
@[simp] theorem recordHall_isReady (h : Fin 6) (s : State) :
    (recordHall h s).isReady = s.isReady := rfl
@[simp] theorem recordHall_indexFound (h : Fin 6) (s : State) :
    (recordHall h s).indexFound = s.indexFound := rfl
@[simp] theorem recordHall_hallPolarityCalibrated (h : Fin 6) (s : State) :
    (recordHall h s).hallPolarityCalibrated = s.hallPolarityCalibrated := rfl
@[simp] theorem recordHall_error (h : Fin 6) (s : State) :
    (recordHall h s).error = s.error := rfl
@[simp] theorem recordHall_hallCal (h : Fin 6) (s : State) :
    (recordHall h s).hallCal = { s.hallCal with lastHallCnt := BitVec.ofNat 32 h.val } := rfl
@[simp] theorem recordHall_params (h : Fin 6) (s : State) :
    (recordHall h s).params = s.params := rfl
@[simp] theorem recordHall_ports (h : Fin 6) (s : State) :
    (recordHall h s).ports = s.ports := rfl
@[simp] theorem recordHall_pending (h : Fin 6) (s : State) :
    (recordHall h s).pending = s.pending := rfl
@[simp] theorem recordHall_out (h : Fin 6) (s : State) :
    (recordHall h s).out = s.out := rfl
@[simp] theorem recordHall_draws (h : Fin 6) (s : State) :
    (recordHall h s).draws = s.draws := rfl

/-! `countMiss` -/

@[simp] theorem countMiss_cfg (s : State) :
    (countMiss s).cfg = s.cfg := rfl
@[simp] theorem countMiss_plat (s : State) :
    (countMiss s).plat = s.plat := rfl
@[simp] theorem countMiss_written (s : State) :
    (countMiss s).written = s.written := rfl
@[simp] theorem countMiss_est (s : State) :
    (countMiss s).est = s.est := rfl
@[simp] theorem countMiss_raw (s : State) :
    (countMiss s).raw = s.raw := rfl
@[simp] theorem countMiss_spi (s : State) :
    (countMiss s).spi = { s.spi with errorRate := smoothRate s.plat.spiErrAlpha s.spi.errorRate F32.one } := rfl
@[simp] theorem countMiss_hwcnt (s : State) :
    (countMiss s).hwcnt = s.hwcnt := rfl
@[simp] theorem countMiss_status (s : State) :
    (countMiss s).status = s.status := rfl
@[simp] theorem countMiss_isReady (s : State) :
    (countMiss s).isReady = s.isReady := rfl
@[simp] theorem countMiss_indexFound (s : State) :
    (countMiss s).indexFound = s.indexFound := rfl
@[simp] theorem countMiss_hallPolarityCalibrated (s : State) :
    (countMiss s).hallPolarityCalibrated = s.hallPolarityCalibrated := rfl
@[simp] theorem countMiss_error (s : State) :
    (countMiss s).error = s.error := rfl
@[simp] theorem countMiss_hallCal (s : State) :
    (countMiss s).hallCal = s.hallCal := rfl
@[simp] theorem countMiss_params (s : State) :
    (countMiss s).params = s.params := rfl
@[simp] theorem countMiss_ports (s : State) :
    (countMiss s).ports = s.ports := rfl
@[simp] theorem countMiss_pending (s : State) :
    (countMiss s).pending = s.pending := rfl
@[simp] theorem countMiss_out (s : State) :
    (countMiss s).out = s.out := rfl
@[simp] theorem countMiss_draws (s : State) :
    (countMiss s).draws = s.draws := rfl

/-! `countHit` -/

@[simp] theorem countHit_cfg (s : State) :
    (countHit s).cfg = s.cfg := rfl
@[simp] theorem countHit_plat (s : State) :
    (countHit s).plat = s.plat := rfl
@[simp] theorem countHit_written (s : State) :
    (countHit s).written = s.written := rfl
@[simp] theorem countHit_est (s : State) :
    (countHit s).est = s.est := rfl
@[simp] theorem countHit_raw (s : State) :
    (countHit s).raw = s.raw := rfl
@[simp] theorem countHit_spi (s : State) :
    (countHit s).spi = { s.spi with errorRate := smoothRate s.plat.spiErrAlpha s.spi.errorRate F32.zero } := rfl
@[simp] theorem countHit_hwcnt (s : State) :
    (countHit s).hwcnt = s.hwcnt := rfl
@[simp] theorem countHit_status (s : State) :
    (countHit s).status = { s.status with absSpiPosUpdated := false } := rfl
@[simp] theorem countHit_isReady (s : State) :
    (countHit s).isReady = s.isReady := rfl
@[simp] theorem countHit_indexFound (s : State) :
    (countHit s).indexFound = s.indexFound := rfl
@[simp] theorem countHit_hallPolarityCalibrated (s : State) :
    (countHit s).hallPolarityCalibrated = s.hallPolarityCalibrated := rfl
@[simp] theorem countHit_error (s : State) :
    (countHit s).error = s.error := rfl
@[simp] theorem countHit_hallCal (s : State) :
    (countHit s).hallCal = s.hallCal := rfl
@[simp] theorem countHit_params (s : State) :
    (countHit s).params = s.params := rfl
@[simp] theorem countHit_ports (s : State) :
    (countHit s).ports = s.ports := rfl
@[simp] theorem countHit_pending (s : State) :
    (countHit s).pending = s.pending := rfl
@[simp] theorem countHit_out (s : State) :
    (countHit s).out = s.out := rfl
@[simp] theorem countHit_draws (s : State) :
    (countHit s).draws = s.draws := rfl

/-! `applyDelta` -/

@[simp] theorem applyDelta_cfg (d : Int) (l : Option Word) (s : State) :
    (applyDelta d l s).cfg = s.cfg := rfl
@[simp] theorem applyDelta_plat (d : Int) (l : Option Word) (s : State) :
    (applyDelta d l s).plat = s.plat := rfl
@[simp] theorem applyDelta_written (d : Int) (l : Option Word) (s : State) :
    (applyDelta d l s).written = s.written := rfl
@[simp] theorem applyDelta_est (d : Int) (l : Option Word) (s : State) :
    (applyDelta d l s).est = { s.est with shadowCount := wrap32 (s.est.shadowCount.toInt + d), countInCpr := nextCount d l s } := rfl
@[simp] theorem applyDelta_raw (d : Int) (l : Option Word) (s : State) :
    (applyDelta d l s).raw = s.raw := rfl
@[simp] theorem applyDelta_spi (d : Int) (l : Option Word) (s : State) :
    (applyDelta d l s).spi = s.spi := rfl
@[simp] theorem applyDelta_hwcnt (d : Int) (l : Option Word) (s : State) :
    (applyDelta d l s).hwcnt = s.hwcnt := rfl
@[simp] theorem applyDelta_status (d : Int) (l : Option Word) (s : State) :
    (applyDelta d l s).status = s.status := rfl
@[simp] theorem applyDelta_isReady (d : Int) (l : Option Word) (s : State) :
    (applyDelta d l s).isReady = s.isReady := rfl
@[simp] theorem applyDelta_indexFound (d : Int) (l : Option Word) (s : State) :
    (applyDelta d l s).indexFound = s.indexFound := rfl
@[simp] theorem applyDelta_hallPolarityCalibrated (d : Int) (l : Option Word) (s : State) :
    (applyDelta d l s).hallPolarityCalibrated = s.hallPolarityCalibrated := rfl
@[simp] theorem applyDelta_error (d : Int) (l : Option Word) (s : State) :
    (applyDelta d l s).error = s.error := rfl
@[simp] theorem applyDelta_hallCal (d : Int) (l : Option Word) (s : State) :
    (applyDelta d l s).hallCal = s.hallCal := rfl
@[simp] theorem applyDelta_params (d : Int) (l : Option Word) (s : State) :
    (applyDelta d l s).params = s.params := rfl
@[simp] theorem applyDelta_ports (d : Int) (l : Option Word) (s : State) :
    (applyDelta d l s).ports = s.ports := rfl
@[simp] theorem applyDelta_pending (d : Int) (l : Option Word) (s : State) :
    (applyDelta d l s).pending = s.pending := rfl
@[simp] theorem applyDelta_out (d : Int) (l : Option Word) (s : State) :
    (applyDelta d l s).out = s.out := rfl
@[simp] theorem applyDelta_draws (d : Int) (l : Option Word) (s : State) :
    (applyDelta d l s).draws = s.draws := rfl

/-! `writeGains` -/

@[simp] theorem writeGains_cfg (s : State) :
    (writeGains s).cfg = s.cfg := rfl
@[simp] theorem writeGains_plat (s : State) :
    (writeGains s).plat = s.plat := rfl
@[simp] theorem writeGains_written (s : State) :
    (writeGains s).written = s.written := rfl
@[simp] theorem writeGains_est (s : State) :
    (writeGains s).est = { s.est with kp := gainKp s, ki := gainKi s } := rfl
@[simp] theorem writeGains_raw (s : State) :
    (writeGains s).raw = s.raw := rfl
@[simp] theorem writeGains_spi (s : State) :
    (writeGains s).spi = s.spi := rfl
@[simp] theorem writeGains_hwcnt (s : State) :
    (writeGains s).hwcnt = s.hwcnt := rfl
@[simp] theorem writeGains_status (s : State) :
    (writeGains s).status = s.status := rfl
@[simp] theorem writeGains_isReady (s : State) :
    (writeGains s).isReady = s.isReady := rfl
@[simp] theorem writeGains_indexFound (s : State) :
    (writeGains s).indexFound = s.indexFound := rfl
@[simp] theorem writeGains_hallPolarityCalibrated (s : State) :
    (writeGains s).hallPolarityCalibrated = s.hallPolarityCalibrated := rfl
@[simp] theorem writeGains_error (s : State) :
    (writeGains s).error = s.error := rfl
@[simp] theorem writeGains_hallCal (s : State) :
    (writeGains s).hallCal = s.hallCal := rfl
@[simp] theorem writeGains_params (s : State) :
    (writeGains s).params = s.params := rfl
@[simp] theorem writeGains_ports (s : State) :
    (writeGains s).ports = s.ports := rfl
@[simp] theorem writeGains_pending (s : State) :
    (writeGains s).pending = s.pending := rfl
@[simp] theorem writeGains_out (s : State) :
    (writeGains s).out = s.out := rfl
@[simp] theorem writeGains_draws (s : State) :
    (writeGains s).draws = s.draws := rfl

/-! `indexReadiness` -/

@[simp] theorem indexReadiness_cfg (s : State) :
    (indexReadiness s).cfg = s.cfg := rfl
@[simp] theorem indexReadiness_plat (s : State) :
    (indexReadiness s).plat = s.plat := rfl
@[simp] theorem indexReadiness_written (s : State) :
    (indexReadiness s).written = s.written := rfl
@[simp] theorem indexReadiness_est (s : State) :
    (indexReadiness s).est = s.est := rfl
@[simp] theorem indexReadiness_raw (s : State) :
    (indexReadiness s).raw = s.raw := rfl
@[simp] theorem indexReadiness_spi (s : State) :
    (indexReadiness s).spi = s.spi := rfl
@[simp] theorem indexReadiness_hwcnt (s : State) :
    (indexReadiness s).hwcnt = s.hwcnt := rfl
@[simp] theorem indexReadiness_status (s : State) :
    (indexReadiness s).status = s.status := rfl
@[simp] theorem indexReadiness_isReady (s : State) :
    (indexReadiness s).isReady = if s.cfg.flags.preCalibrated then (if s.error = 0 then true else s.isReady) else if s.params.indexUpdateOffset then s.isReady else false := rfl
@[simp] theorem indexReadiness_indexFound (s : State) :
    (indexReadiness s).indexFound = s.indexFound := rfl
@[simp] theorem indexReadiness_hallPolarityCalibrated (s : State) :
    (indexReadiness s).hallPolarityCalibrated = s.hallPolarityCalibrated := rfl
@[simp] theorem indexReadiness_error (s : State) :
    (indexReadiness s).error = s.error := rfl
@[simp] theorem indexReadiness_hallCal (s : State) :
    (indexReadiness s).hallCal = s.hallCal := rfl
@[simp] theorem indexReadiness_params (s : State) :
    (indexReadiness s).params = s.params := rfl
@[simp] theorem indexReadiness_ports (s : State) :
    (indexReadiness s).ports = s.ports := rfl
@[simp] theorem indexReadiness_pending (s : State) :
    (indexReadiness s).pending = s.pending := rfl
@[simp] theorem indexReadiness_out (s : State) :
    (indexReadiness s).out = s.out := rfl
@[simp] theorem indexReadiness_draws (s : State) :
    (indexReadiness s).draws = s.draws := rfl

/-! `indexSeen` -/

@[simp] theorem indexSeen_cfg (s : State) :
    (indexSeen s).cfg = s.cfg := rfl
@[simp] theorem indexSeen_plat (s : State) :
    (indexSeen s).plat = s.plat := rfl
@[simp] theorem indexSeen_written (s : State) :
    (indexSeen s).written = s.written := rfl
@[simp] theorem indexSeen_est (s : State) :
    (indexSeen s).est = s.est := rfl
@[simp] theorem indexSeen_raw (s : State) :
    (indexSeen s).raw = s.raw := rfl
@[simp] theorem indexSeen_spi (s : State) :
    (indexSeen s).spi = s.spi := rfl
@[simp] theorem indexSeen_hwcnt (s : State) :
    (indexSeen s).hwcnt = s.hwcnt := rfl
@[simp] theorem indexSeen_status (s : State) :
    (indexSeen s).status = { s.status with indexArmed := false } := rfl
@[simp] theorem indexSeen_isReady (s : State) :
    (indexSeen s).isReady = s.isReady := rfl
@[simp] theorem indexSeen_indexFound (s : State) :
    (indexSeen s).indexFound = true := rfl
@[simp] theorem indexSeen_hallPolarityCalibrated (s : State) :
    (indexSeen s).hallPolarityCalibrated = s.hallPolarityCalibrated := rfl
@[simp] theorem indexSeen_error (s : State) :
    (indexSeen s).error = s.error := rfl
@[simp] theorem indexSeen_hallCal (s : State) :
    (indexSeen s).hallCal = s.hallCal := rfl
@[simp] theorem indexSeen_params (s : State) :
    (indexSeen s).params = s.params := rfl
@[simp] theorem indexSeen_ports (s : State) :
    (indexSeen s).ports = s.ports := rfl
@[simp] theorem indexSeen_pending (s : State) :
    (indexSeen s).pending = s.pending := rfl
@[simp] theorem indexSeen_out (s : State) :
    (indexSeen s).out = s.out := rfl
@[simp] theorem indexSeen_draws (s : State) :
    (indexSeen s).draws = s.draws := rfl

/-! `enter` -/

@[simp] theorem enter_cfg (i : Instr) (p : Ports) (s : State) :
    (enter i p s).cfg = s.cfg := rfl
@[simp] theorem enter_plat (i : Instr) (p : Ports) (s : State) :
    (enter i p s).plat = s.plat := rfl
@[simp] theorem enter_written (i : Instr) (p : Ports) (s : State) :
    (enter i p s).written = s.written := rfl
@[simp] theorem enter_est (i : Instr) (p : Ports) (s : State) :
    (enter i p s).est = s.est := rfl
@[simp] theorem enter_raw (i : Instr) (p : Ports) (s : State) :
    (enter i p s).raw = s.raw := rfl
@[simp] theorem enter_spi (i : Instr) (p : Ports) (s : State) :
    (enter i p s).spi = s.spi := rfl
@[simp] theorem enter_hwcnt (i : Instr) (p : Ports) (s : State) :
    (enter i p s).hwcnt = s.hwcnt := rfl
@[simp] theorem enter_status (i : Instr) (p : Ports) (s : State) :
    (enter i p s).status = s.status := rfl
@[simp] theorem enter_isReady (i : Instr) (p : Ports) (s : State) :
    (enter i p s).isReady = s.isReady := rfl
@[simp] theorem enter_indexFound (i : Instr) (p : Ports) (s : State) :
    (enter i p s).indexFound = s.indexFound := rfl
@[simp] theorem enter_hallPolarityCalibrated (i : Instr) (p : Ports) (s : State) :
    (enter i p s).hallPolarityCalibrated = s.hallPolarityCalibrated := rfl
@[simp] theorem enter_error (i : Instr) (p : Ports) (s : State) :
    (enter i p s).error = s.error := rfl
@[simp] theorem enter_hallCal (i : Instr) (p : Ports) (s : State) :
    (enter i p s).hallCal = s.hallCal := rfl
@[simp] theorem enter_params (i : Instr) (p : Ports) (s : State) :
    (enter i p s).params = s.params := rfl
@[simp] theorem enter_ports (i : Instr) (p : Ports) (s : State) :
    (enter i p s).ports = p := rfl
@[simp] theorem enter_pending (i : Instr) (p : Ports) (s : State) :
    (enter i p s).pending = s.pending := rfl
@[simp] theorem enter_out (i : Instr) (p : Ports) (s : State) :
    (enter i p s).out = s.out := rfl
@[simp] theorem enter_draws (i : Instr) (p : Ports) (s : State) :
    (enter i p s).draws = nextDraw i s.draws := rfl

/-! `validityFlags`: the one update with a condition; each field by cases on it. -/

@[simp] theorem validityFlags_cfg (s : State) : (validityFlags s).cfg = s.cfg := by
  unfold validityFlags; split <;> rfl
@[simp] theorem validityFlags_plat (s : State) : (validityFlags s).plat = s.plat := by
  unfold validityFlags; split <;> rfl
@[simp] theorem validityFlags_written (s : State) : (validityFlags s).written = s.written := by
  unfold validityFlags; split <;> rfl
@[simp] theorem validityFlags_est (s : State) : (validityFlags s).est = s.est := by
  unfold validityFlags; split <;> rfl
@[simp] theorem validityFlags_raw (s : State) : (validityFlags s).raw = s.raw := by
  unfold validityFlags; split <;> rfl
@[simp] theorem validityFlags_spi (s : State) : (validityFlags s).spi = s.spi := by
  unfold validityFlags; split <;> rfl
@[simp] theorem validityFlags_hwcnt (s : State) : (validityFlags s).hwcnt = s.hwcnt := by
  unfold validityFlags; split <;> rfl
theorem validityFlags_status_of_clear (s : State) (h : s.error = 0) :
    (validityFlags s).status = { s.status with posValid := true, velValid := true } := by
  rw [validityFlags, if_pos h]
theorem validityFlags_of_error (s : State) (h : s.error ≠ 0) : validityFlags s = s := if_neg h
@[simp] theorem validityFlags_isReady (s : State) : (validityFlags s).isReady = s.isReady := by
  unfold validityFlags; split <;> rfl
@[simp] theorem validityFlags_indexFound (s : State) : (validityFlags s).indexFound = s.indexFound := by
  unfold validityFlags; split <;> rfl
@[simp] theorem validityFlags_hallPolarityCalibrated (s : State) : (validityFlags s).hallPolarityCalibrated = s.hallPolarityCalibrated := by
  unfold validityFlags; split <;> rfl
@[simp] theorem validityFlags_error (s : State) : (validityFlags s).error = s.error := by
  unfold validityFlags; split <;> rfl
@[simp] theorem validityFlags_hallCal (s : State) : (validityFlags s).hallCal = s.hallCal := by
  unfold validityFlags; split <;> rfl
@[simp] theorem validityFlags_params (s : State) : (validityFlags s).params = s.params := by
  unfold validityFlags; split <;> rfl
@[simp] theorem validityFlags_ports (s : State) : (validityFlags s).ports = s.ports := by
  unfold validityFlags; split <;> rfl
@[simp] theorem validityFlags_pending (s : State) : (validityFlags s).pending = s.pending := by
  unfold validityFlags; split <;> rfl
@[simp] theorem validityFlags_out (s : State) : (validityFlags s).out = s.out := by
  unfold validityFlags; split <;> rfl
@[simp] theorem validityFlags_draws (s : State) : (validityFlags s).draws = s.draws := by
  unfold validityFlags; split <;> rfl

/-! The six-entry tables. -/

@[simp] theorem Six.get_set_same {α : Type} (t : Six α) (k : Fin 6) (x : α) : (t.set k x).get k = x := by
  fin_cases k <;> rfl

theorem Six.get_set_other {α : Type} (t : Six α) (j k : Fin 6) (x : α) (h : j ≠ k) :
    (t.set k x).get j = t.get j := by
  fin_cases j <;> fin_cases k <;> first | rfl | exact absurd rfl h

@[simp] theorem Six.get_all {α : Type} (x : α) (k : Fin 6) : (Six.all x).get k = x := by
  fin_cases k <;> rfl

end Sys2Proof.Machine
end

