-- ==== Sys2Proof/Laws/Ops.lean ====
section
/-! SUPPORT. What each shared operation can do, said once: the mode of a content of `CFG_MODE`, the gates, the two steps of
UPDATE that can end it, the observer, the requests. Later proofs cite these and unfold nothing. -/

namespace Sys2Proof.Machine

/-! The mode (30_encoding.md R110). -/

theorem isAbs_iff (n : Nat) (m : Word) : isAbs n m = true ↔ AbsVariant n m (m.toNat % 256) := by
  have := m.isLt
  simp only [isAbs, Bool.and_eq_true, decide_eq_true_eq]
  constructor
  · rintro ⟨⟨h1, h2⟩, h3⟩; exact ⟨by omega, by omega, h3⟩
  · rintro ⟨h1, h2, h3⟩; exact ⟨⟨by omega, by omega⟩, h3⟩

theorem AbsVariant.eq {n : Nat} {m : Word} {v : Nat} (h : AbsVariant n m v) : m.toNat % 256 = v := by
  obtain ⟨h1, h2, _⟩ := h; omega

theorem AbsVariant.isAbs {n : Nat} {m : Word} {v : Nat} (h : AbsVariant n m v) : isAbs n m = true := by
  rw [isAbs_iff, h.eq]; exact h

theorem AbsVariant.ne {n : Nat} {m : Word} {v : Nat} (h : AbsVariant n m v) : m ≠ 0 ∧ m ≠ 1 ∧ m ≠ 2 := by
  obtain ⟨h1, _, _⟩ := h
  refine ⟨?_, ?_, ?_⟩ <;> rintro rfl <;> simp at h1 <;> omega

theorem modeOf_zero (n : Nat) : modeOf n 0 = .incremental := rfl

theorem modeOf_one (n : Nat) : modeOf n 1 = .hall := rfl

theorem modeOf_two (n : Nat) : modeOf n 2 = .sincos := rfl

theorem modeOf_abs {n : Nat} {m : Word} {v : Nat} (h : AbsVariant n m v) : modeOf n m = .abs v := by
  obtain ⟨h0, h1, h2⟩ := h.ne
  simp only [modeOf, h0, h1, h2, h.isAbs, if_false, if_true, h.eq]

theorem modeOf_unsupported {n : Nat} {m : Word} (h : ¬ SupportedMode n m) : modeOf n m = .unsupported := by
  simp only [SupportedMode, not_or] at h
  obtain ⟨h0, h1, h2, h3⟩ := h
  have h4 : isAbs n m = false := by
    rw [Bool.eq_false_iff]
    exact fun hc => h3 ⟨_, (isAbs_iff n m).mp hc⟩
  rw [modeOf, if_neg h0, if_neg h1, if_neg h2, h4, if_neg Bool.false_ne_true]

/-- The content of `CFG_MODE` behind each mode. -/
theorem modeOf_cases (n : Nat) (m : Word) :
    (m = 0 ∧ modeOf n m = .incremental) ∨ (m = 1 ∧ modeOf n m = .hall) ∨ (m = 2 ∧ modeOf n m = .sincos) ∨
      (∃ v, AbsVariant n m v ∧ modeOf n m = .abs v) ∨ (¬ SupportedMode n m ∧ modeOf n m = .unsupported) := by
  by_cases h0 : m = 0
  · subst h0; exact .inl ⟨rfl, rfl⟩
  by_cases h1 : m = 1
  · subst h1; exact .inr (.inl ⟨rfl, rfl⟩)
  by_cases h2 : m = 2
  · subst h2; exact .inr (.inr (.inl ⟨rfl, rfl⟩))
  by_cases h3 : ∃ v, AbsVariant n m v
  · obtain ⟨v, hv⟩ := h3
    exact .inr (.inr (.inr (.inl ⟨v, hv, modeOf_abs hv⟩)))
  · have hs : ¬ SupportedMode n m := by simp only [SupportedMode, not_or]; exact ⟨h0, h1, h2, h3⟩
    exact .inr (.inr (.inr (.inr ⟨hs, modeOf_unsupported hs⟩)))

theorem mode_incremental_iff (s : State) : s.mode = .incremental ↔ s.cfg.mode = 0 := by
  unfold State.mode
  rcases modeOf_cases s.params.nAbs s.cfg.mode with ⟨h, e⟩ | ⟨h, e⟩ | ⟨h, e⟩ | ⟨v, h, e⟩ | ⟨h, e⟩ <;> rw [e]
  · exact iff_of_true rfl h
  · exact iff_of_false nofun (by rw [h]; decide)
  · exact iff_of_false nofun (by rw [h]; decide)
  · exact iff_of_false nofun h.ne.1
  · simp only [SupportedMode, not_or] at h; exact iff_of_false nofun h.1

theorem mode_hall_iff (s : State) : s.mode = .hall ↔ s.cfg.mode = 1 := by
  unfold State.mode
  rcases modeOf_cases s.params.nAbs s.cfg.mode with ⟨h, e⟩ | ⟨h, e⟩ | ⟨h, e⟩ | ⟨v, h, e⟩ | ⟨h, e⟩ <;> rw [e]
  · exact iff_of_false nofun (by rw [h]; decide)
  · exact iff_of_true rfl h
  · exact iff_of_false nofun (by rw [h]; decide)
  · exact iff_of_false nofun h.ne.2.1
  · simp only [SupportedMode, not_or] at h; exact iff_of_false nofun h.2.1

theorem mode_sincos_iff (s : State) : s.mode = .sincos ↔ s.cfg.mode = 2 := by
  unfold State.mode
  rcases modeOf_cases s.params.nAbs s.cfg.mode with ⟨h, e⟩ | ⟨h, e⟩ | ⟨h, e⟩ | ⟨v, h, e⟩ | ⟨h, e⟩ <;> rw [e]
  · exact iff_of_false nofun (by rw [h]; decide)
  · exact iff_of_false nofun (by rw [h]; decide)
  · exact iff_of_true rfl h
  · exact iff_of_false nofun h.ne.2.2
  · simp only [SupportedMode, not_or] at h; exact iff_of_false nofun h.2.2.1

theorem mode_abs_iff (s : State) (v : Nat) : s.mode = .abs v ↔ AbsVariant s.params.nAbs s.cfg.mode v := by
  unfold State.mode
  constructor
  · intro h
    rcases modeOf_cases s.params.nAbs s.cfg.mode with ⟨_, e⟩ | ⟨_, e⟩ | ⟨_, e⟩ | ⟨w, hw, e⟩ | ⟨_, e⟩ <;>
      rw [e] at h <;> simp at h
    subst h; exact hw
  · exact modeOf_abs

theorem mode_unsupported_iff (s : State) :
    s.mode = .unsupported ↔ ¬ SupportedMode s.params.nAbs s.cfg.mode := by
  unfold State.mode
  constructor
  · intro h
    rcases modeOf_cases s.params.nAbs s.cfg.mode with ⟨_, e⟩ | ⟨_, e⟩ | ⟨_, e⟩ | ⟨w, hw, e⟩ | ⟨hs, e⟩ <;>
      rw [e] at h <;> simp at h
    exact hs
  · exact modeOf_unsupported

/-! Integers. -/

theorem centered_spec (a n : Int) (hn : 0 < n) : CenteredOf (centered a n) a n := by
  refine ⟨?_, centered_bounds a n hn⟩
  have h := Int.emod_add_mul_ediv a n
  unfold centered
  split
  · have : a - (a % n - n) = n * (a / n + 1) := by rw [mul_add]; omega
    rw [this]; exact Int.mul_emod_right n _
  · have : a - a % n = n * (a / n) := by omega
    rw [this]; exact Int.mul_emod_right n _

theorem wrap32_add (w : Word) (d : Int) : wrap32 (w.toInt + d) = w + BitVec.ofInt 32 d := by
  rw [wrap32, BitVec.ofInt_add, BitVec.ofInt_toInt]

theorem wrap32_sub (a b : Word) : wrap32 (a.toInt - b.toInt) = a - b := by
  rw [wrap32, sub_eq_add_neg, BitVec.ofInt_add, BitVec.ofInt_toInt, BitVec.ofInt_neg, BitVec.ofInt_toInt,
    BitVec.sub_eq_add_neg]

theorem wrap32_toInt (a : Int) (h1 : -2147483648 ≤ a) (h2 : a < 2147483648) : (wrap32 a).toInt = a := by
  rw [wrap32, BitVec.toInt_ofInt]
  exact Int.bmod_eq_of_le (by norm_num; omega) (by norm_num; omega)

/-- A count reduced modulo a 32-bit modulus is its own register content. -/
theorem wrap32_mod_toInt (a : Int) (m : Word) (h : 0 < m.toInt) : (wrap32 (modPos a m.toInt)).toInt = a % m.toInt := by
  have h1 := Int.emod_nonneg a (show m.toInt ≠ 0 by omega)
  have h2 := Int.emod_lt_of_pos a h
  have h3 := BitVec.toInt_lt (x := m)
  exact wrap32_toInt _ (by unfold modPos; omega) (by unfold modPos; norm_num at h3; omega)

/-! Raising faults. -/

theorem faultMask_ne_zero (k : FaultKind) : faultMask k ≠ 0 := by cases k <;> decide

theorem raiseFault_error_ne_zero (k : FaultKind) (s : State) : (raiseFault k s).error ≠ 0 := by
  intro h
  apply faultMask_ne_zero k
  have h' : s.error ||| faultMask k = 0 := h
  exact (BitVec.or_eq_zero_iff.mp h').2

/-- RAISE_ERROR's loop leaves every field but the four of R262 alone. -/
theorem raiseAll_frame (mask : BitVec 8) (ks : List FaultKind) (s : State) :
    raiseAll mask ks s =
      { s with
        error := (raiseAll mask ks s).error
        status.posValid := (raiseAll mask ks s).status.posValid
        status.velValid := (raiseAll mask ks s).status.velValid
        isReady := (raiseAll mask ks s).isReady } := by
  induction ks generalizing s with
  | nil => rfl
  | cons k rest ih =>
    rw [raiseAll]
    split
    · rw [ih]; rfl
    · exact ih s

/-! UPDATE: where it can end. -/

/-- Where UPDATE has a next state: its configuration was judged valid, and step 1 either ended it with FAIL or gave a delta
that the observer took to its end. -/
theorem execUpdate_cases {s t : State} (h : execUpdate s = .next t) :
    updateGate s = none ∧
      ((∃ u, stepOne s = .failed u ∧ t = finish .fail u) ∨
        ∃ d l u, stepOne s = .moved d l u ∧ runObserver d (applyDelta d l u) = .next t) := by
  unfold execUpdate at h
  split at h
  · cases h
  · rename_i hg
    refine ⟨hg, ?_⟩
    split at h
    · cases h
    · rename_i u hu; cases h; exact .inl ⟨u, hu, rfl⟩
    · rename_i d l u hu; exact .inr ⟨d, l, u, hu, h⟩

/-- Where the observer has a next state, every part of it had a value. -/
theorem runObserver_next {d : Int} {s t : State} (h : runObserver d s = .next t) :
    ∃ a b, estimate d s = .ok a ∧ emitPhase a = .ok b ∧ t = finish .ok (validityFlags b) := by
  unfold runObserver at h
  split at h
  · cases h
  · rename_i a ha
    split at h
    · cases h
    · rename_i b hb; cases h; exact ⟨a, b, ha, hb, rfl⟩

/-- A circular position exists only for a cpr-local position that is a number. -/
theorem circularPosition_some {cprf range last p : F32} {e : Est}
    (h : circularPosition cprf range last e = some p) : e.posCpr.isNaN = false := by
  unfold circularPosition at h
  split at h
  · cases h
  · rename_i frac hf
    have hfin := F32.wrapPm_some_isFinite _ _ _ hf
    have hnn := F32.isFinite_not_isNaN _ hfin
    by_contra hc
    rw [Bool.not_eq_false] at hc
    rw [F32.div_isNaN_left _ _ (F32.sub_isNaN_left _ _ hc)] at hnn
    cases hnn

/-- The interpolation is one of the values of 42_pll.md R171. -/
theorem interpolate_cases (t : F32) (frozen : Bool) (d : Int) (e : Est) :
    interpolate t frozen d e = F32.half ∨ interpolate t frozen d e = F32.zero ∨ interpolate t frozen d e = F32.one ∨
      ∃ x, interpolate t frozen d e = clampUnit x := by
  unfold interpolate
  split
  · exact .inl rfl
  · split
    · exact .inr (.inl rfl)
    · split
      · exact .inr (.inr (.inl rfl))
      · exact .inr (.inr (.inr ⟨_, rfl⟩))

/-- The clamp's result lies in `[0, 1]`, whatever it is given (42_pll.md R171). -/
theorem clampUnit_range (x : F32) : F32.zero.le (clampUnit x) = true ∧ (clampUnit x).le F32.one = true := by
  unfold clampUnit
  split
  · decide
  · rename_i h1
    split
    · decide
    · rename_i h2
      simp only [Bool.not_eq_true', Bool.not_eq_false] at h1
      have h3 := (F32.le_iff _ _).mp h1
      refine ⟨h1, (F32.le_iff _ _).mpr ⟨h3.2.1, by decide, ?_⟩⟩
      by_contra hc
      exact h2 ((F32.lt_iff _ _).mpr ⟨by decide, h3.2.1, not_le.mp hc⟩)

/-- Where the observer has a value, it is the snapped state with a circular position and an interpolation of its own. -/
theorem observe_some {t cprf range last : F32} {enable : Bool} {d : Int} {e0 e : Est}
    (h : observe t cprf range last enable d e0 = some e) :
    ∃ pc, circularPosition cprf range last (snapVelocity t e0) = some pc ∧
      e = { snapVelocity t e0 with
        posCircular := pc
        interpolation := interpolate t (snaps t e0 || !enable) d (snapVelocity t e0) } := by
  unfold observe at h
  split at h
  · cases h
  · rename_i pc hpc
    exact ⟨pc, hpc, (Option.some.inj h).symm⟩

/-- Where the tracking loop has a value, the wrapped error had one. -/
theorem track_some {d m mc : Int} {s : State} {e : Est} (h : track d m mc s = some e) :
    ∃ ec, wrappedError (cprFloat s) (predict s.plat.period s.est) mc = some ec ∧
      observe s.plat.period (cprFloat s) s.plat.circRange s.est.posCpr s.cfg.flags.enablePhaseInterpolation d
        (correct s.plat.period (cprFloat s) (linearError (predict s.plat.period s.est) m) ec
          (predict s.plat.period s.est)) = some e := by
  unfold track at h
  split at h
  · cases h
  · rename_i ec hec; exact ⟨ec, hec, h⟩

/-- Where the estimator has a value, both modelled counts had one, and so had the tracking loop. -/
theorem estimate_track {d : Int} {s t : State} (h : estimate d s = .ok t) :
    ∃ c e, modelledCounts s = some c ∧ track d c.1 c.2 s = some e ∧ t = { s with est := e } := by
  unfold estimate at h
  split at h
  · cases h
  · rename_i c hc
    split at h
    · cases h
    · rename_i e he; cases h; exact ⟨c, e, hc, he, rfl⟩

/-- What the tracking loop writes: the two counters, the phase outputs and the gains stay, the cpr-local position is a
number that `fmod_pos` gave, and the interpolation is one of its four values. -/
theorem track_frame {d m mc : Int} {s : State} {e : Est} (h : track d m mc s = some e) :
    e.shadowCount = s.est.shadowCount ∧ e.countInCpr = s.est.countInCpr ∧
      e.phase = s.est.phase ∧ e.phaseVel = s.est.phaseVel ∧ e.kp = s.est.kp ∧ e.ki = s.est.ki ∧
      e.posCpr.isNaN = false ∧ (∃ x, e.posCpr = F32.fmodPos x (cprFloat s)) ∧
      (∃ t frozen e', e.interpolation = interpolate t frozen d e') := by
  obtain ⟨ec, _, ho⟩ := track_some h
  obtain ⟨pc, hpc, rfl⟩ := observe_some ho
  have hn := circularPosition_some hpc
  refine ⟨?_, ?_, ?_, ?_, ?_, ?_, ?_, ?_, ?_⟩ <;> dsimp only
  · rfl
  · rfl
  · rfl
  · rfl
  · rfl
  · rfl
  · exact hn
  · exact ⟨_, rfl⟩
  · exact ⟨_, _, _, rfl⟩

/-- Step 6 of UPDATE moves the phase outputs only, and only while ready. -/
theorem emitPhase_ok {s t : State} (h : emitPhase s = .ok t) :
    (s.isReady = false ∧ t = s) ∨
      (s.isReady = true ∧ ∃ ph, (rawPhase s).wrapPm F32.twoPi = some ph ∧
        t = { s with est.phase := ph, est.phaseVel := rawPhaseVel s }) := by
  unfold emitPhase at h
  split at h
  · rename_i hr
    split at h
    · cases h
    · rename_i ph hph; cases h; exact .inr ⟨hr, ph, hph, rfl⟩
  · rename_i hr; cases h; exact .inl ⟨by simpa using hr, rfl⟩

/-- The edge sampling writes the calibration scratch only, and where it stops UPDATE it raises the illegal-state fault. -/
theorem sampleEdge_cases (h : Fin 6) (s : State) :
    (∃ c, sampleEdge h s = .goOn { s with hallCal := c } ∧ c.lastHallCnt = BitVec.ofNat 32 h.val) ∨
      sampleEdge h s = .ambiguous (ambiguousTransition s) ∨ ∃ r, sampleEdge h s = .refused r := by
  unfold sampleEdge
  split
  · exact .inl ⟨_, rfl, rfl⟩
  · split
    · exact .inr (.inl rfl)
    · exact .inl ⟨_, rfl, rfl⟩
    · split
      · split
        · exact .inr (.inr ⟨_, rfl⟩)
        · exact .inl ⟨_, rfl, rfl⟩
      · exact .inl ⟨_, rfl, rfl⟩

/-- What a running mean takes in: the slot's sum and its count (43_hall.md R194). -/
theorem averageEdge_some {k : Fin 6} {x : F32} {c c' : HallCal} (h : averageEdge k x c = some c') :
    ∃ m, circularMean (c.seen.get k).toNat (c.acc.get k) x = some m ∧
      c' = { c with acc := c.acc.set k m, seen := c.seen.set k (satSucc (c.seen.get k)) } := by
  unfold averageEdge at h
  split at h
  · cases h
  · rename_i m hm; cases h; exact ⟨m, hm, rfl⟩

/-- Every running mean is a wrapped angle. -/
theorem circularMean_range {n : Nat} {mean x m : F32} (h : circularMean n mean x = some m) : InPhaseRange m := by
  unfold circularMean at h
  split at h
  · exact F32.wrapPm_twoPi_range _ _ h
  · split at h
    · cases h
    · exact F32.wrapPm_twoPi_range _ _ h

/-- Step 1 of UPDATE in Hall mode: with a delta it has written `HALL_STATE` and perhaps the scratch, and where it fails it
has raised the illegal-state fault. -/
theorem hallStep_cases (s : State) :
    (∃ d l c, hallStep s = .moved d l { s with raw.hallState := s.ports.hallSnapshot, hallCal := c }) ∨
      (∃ b, hallStep s = .failed (raiseFault .illegalHallState
        { s with raw.hallState := s.ports.hallSnapshot, status.calibrateHallPhase := b })) ∨
      ∃ r, hallStep s = .refused r := by
  unfold hallStep
  split
  · unfold illegalHall
    split
    · exact .inl ⟨_, _, s.hallCal, rfl⟩
    · exact .inr (.inl ⟨s.status.calibrateHallPhase, rfl⟩)
  · rename_i h _
    unfold legalHall
    split
    · rcases sampleEdge_cases h (loadHall s) with ⟨c, hc, _⟩ | hc | ⟨r, hc⟩ <;> rw [hc]
      · exact .inl ⟨_, _, c, rfl⟩
      · exact .inr (.inl ⟨false, rfl⟩)
      · exact .inr (.inr ⟨r, rfl⟩)
    · exact .inl ⟨_, _, s.hallCal, rfl⟩

/-- Step 1 of UPDATE in an ABS mode: the rate moves, and on a hit the flag is consumed. -/
theorem absStep_cases (s : State) :
    (s.status.absSpiPosUpdated = true ∧ absStep s = absDelta (countHit s)) ∨
      (s.status.absSpiPosUpdated = false ∧ (countMiss s).spi.errorRate.gt F32.fivePercent = true ∧
        absStep s = .failed (raiseFault .absSpiComFail (countMiss s))) ∨
      (s.status.absSpiPosUpdated = false ∧ (countMiss s).spi.errorRate.gt F32.fivePercent = false ∧
        absStep s = absDelta (countMiss s)) := by
  unfold absStep
  split
  · rename_i h; exact .inl ⟨h, rfl⟩
  · rename_i h
    have h := Bool.eq_false_iff.mpr h
    split
    · rename_i h'; exact .inr (.inl ⟨h, h', rfl⟩)
    · rename_i h'; exact .inr (.inr ⟨h, Bool.eq_false_iff.mpr h', rfl⟩)

/-- What step 1 of UPDATE can have moved where it gives a delta. -/
theorem stepOne_moved {s t : State} {d : Int} {l : Option Word} (h : stepOne s = .moved d l t) :
    ∃ hs c rate upd, t = { s with
      raw.hallState := hs, hallCal := c, spi.errorRate := rate, status.absSpiPosUpdated := upd } := by
  unfold stepOne at h
  split at h
  · cases h; exact ⟨s.raw.hallState, s.hallCal, s.spi.errorRate, s.status.absSpiPosUpdated, rfl⟩
  · rcases hallStep_cases s with ⟨d', l', c, hc⟩ | ⟨b, hb⟩ | ⟨r, hr⟩
    · rw [hc] at h; cases h
      exact ⟨s.ports.hallSnapshot, c, s.spi.errorRate, s.status.absSpiPosUpdated, rfl⟩
    · rw [hb] at h; cases h
    · rw [hr] at h; cases h
  · cases h; exact ⟨s.raw.hallState, s.hallCal, s.spi.errorRate, s.status.absSpiPosUpdated, rfl⟩
  · rcases absStep_cases s with ⟨_, hc⟩ | ⟨_, _, hc⟩ | ⟨_, _, hc⟩ <;> rw [hc] at h
    · cases h; exact ⟨s.raw.hallState, s.hallCal, (countHit s).spi.errorRate, false, rfl⟩
    · cases h
    · cases h; exact ⟨s.raw.hallState, s.hallCal, (countMiss s).spi.errorRate, s.status.absSpiPosUpdated, rfl⟩
  · cases h

/-- Where step 1 of UPDATE fails, a fault has been raised on a state that differs in `HALL_STATE`, the sampling flag and the
error rate only. -/
theorem stepOne_failed {s t : State} (h : stepOne s = .failed t) :
    ∃ k hs b rate, t = raiseFault k { s with
      raw.hallState := hs, status.calibrateHallPhase := b, spi.errorRate := rate } := by
  unfold stepOne at h
  split at h
  · cases h
  · rcases hallStep_cases s with ⟨d', l', c, hc⟩ | ⟨b, hb⟩ | ⟨r, hr⟩
    · rw [hc] at h; cases h
    · rw [hb] at h; cases h
      exact ⟨.illegalHallState, s.ports.hallSnapshot, b, s.spi.errorRate, rfl⟩
    · rw [hr] at h; cases h
  · cases h
  · rcases absStep_cases s with ⟨_, hc⟩ | ⟨_, _, hc⟩ | ⟨_, _, hc⟩ <;> rw [hc] at h
    · cases h
    · cases h
      exact ⟨.absSpiComFail, s.raw.hallState, s.status.calibrateHallPhase, (countMiss s).spi.errorRate, rfl⟩
    · cases h
  · cases h
    exact ⟨.unsupportedMode, s.raw.hallState, s.status.calibrateHallPhase, s.spi.errorRate, rfl⟩

/-- What UPDATE can have done to a state, in one form: an early exit that raised a fault, or a complete run. -/
theorem execUpdate_next {s t : State} (h : execUpdate s = .next t) :
    updateGate s = none ∧
      ((∃ k hs b rate, t = finish .fail (raiseFault k { s with
          raw.hallState := hs, status.calibrateHallPhase := b, spi.errorRate := rate })) ∨
        ∃ d l u a v, stepOne s = .moved d l u ∧ estimate d (applyDelta d l u) = .ok a ∧ emitPhase a = .ok v ∧
          t = finish .ok (validityFlags v)) := by
  obtain ⟨hg, ⟨u, hu, rfl⟩ | ⟨d, l, u, hu, hr⟩⟩ := execUpdate_cases h
  · obtain ⟨k, hs, b, rate, rfl⟩ := stepOne_failed hu
    exact ⟨hg, .inl ⟨k, hs, b, rate, rfl⟩⟩
  · obtain ⟨a, v, ha, hv, rfl⟩ := runObserver_next hr
    exact ⟨hg, .inr ⟨d, l, u, a, v, hu, ha, hv, rfl⟩⟩

/-! The gates. -/

theorem legalDirection_iff (v : Word) :
    legalDirection v = true ↔ v.toInt = -1 ∨ v.toInt = 0 ∨ v.toInt = 1 := by
  simp [legalDirection]

/-- The conditions that the mode puts on `CFG_CPR` (10_state.md R39), as the gates compute them. -/
theorem cprFits_iff (s : State) : cprFits s.mode s.cfg.cpr.toInt = true ↔ CprFitsMode s := by
  rcases modeOf_cases s.params.nAbs s.cfg.mode with ⟨h, e⟩ | ⟨h, e⟩ | ⟨h, e⟩ | ⟨v, h, e⟩ | ⟨h, e⟩ <;>
    simp only [State.mode, e, cprFits, Bool.and_eq_true, decide_eq_true_eq]
  · exact ⟨fun h1 => ⟨fun _ => h1, fun h' => absurd (h ▸ h') (by decide), fun v hv => absurd h hv.ne.1⟩,
      fun h' => h'.incremental h⟩
  · exact ⟨fun h1 => ⟨fun h' => absurd (h ▸ h') (by decide), fun _ => h1, fun v hv => absurd h hv.ne.2.1⟩,
      fun h' => h'.hall h⟩
  · exact ⟨fun _ => ⟨fun h' => absurd (h ▸ h') (by decide), fun h' => absurd (h ▸ h') (by decide),
      fun v hv => absurd h hv.ne.2.2⟩, fun _ => trivial⟩
  · exact ⟨fun h1 => ⟨fun h' => absurd h' h.ne.1, fun h' => absurd h' h.ne.2.1, fun _ _ => h1⟩, fun h' => h'.abs v h⟩
  · simp only [SupportedMode, not_or] at h
    exact ⟨fun _ => ⟨fun h' => absurd h' h.1, fun h' => absurd h' h.2.1, fun v hv => absurd ⟨v, hv⟩ h.2.2.2⟩,
      fun _ => trivial⟩

/-- A legal `CFG_CPR` (10_state.md R39, R50) is what the gates of SET_CIRCULAR_COUNT and INDEX_PULSE look for. -/
theorem cprOk_iff (s : State) : cprOk s = true ↔ CprLegal s := by
  simp only [cprOk, Bool.and_eq_true, Bool.or_eq_true, Bool.not_eq_true', decide_eq_true_eq, cprFits_iff]
  refine ⟨fun ⟨h1, h2⟩ => ⟨h1, fun hm => ?_⟩, fun h => ⟨h.positive, ?_⟩⟩
  · rcases h2 with h2 | h2
    · rw [hm] at h2; cases h2
    · exact h2
  · cases hm : s.written.mode
    · exact .inl rfl
    · exact .inr (h.fits hm)

theorem circularGate_of_legal {s : State} (h : CprLegal s) : circularGate s = none := by
  rw [circularGate, (cprOk_iff s).mpr h, if_pos rfl]

theorem indexGate_of_legal {s : State} (h : CprLegal s) : indexGate s = none := by
  rw [indexGate, (cprOk_iff s).mpr h, if_pos rfl]

/-- UPDATE's gate lets through an unsupported mode and a legal configuration. -/
theorem updateGate_none {s : State} (h : updateGate s = none) : s.mode = .unsupported ∨ updateCfgOk s = true := by
  unfold updateGate at h
  split at h
  · rename_i hu; exact .inl hu
  · split at h
    · rename_i hc; exact .inr hc
    · cases h

/-- What UPDATE needs of `CFG_CPR` covers what SET_CIRCULAR_COUNT and INDEX_PULSE need. -/
theorem UpdateLegal.cpr {s : State} (h : UpdateLegal s) : CprLegal s := ⟨h.cprPositive, fun _ => h.cprFits⟩

theorem updateCfgOk_cpr {s : State} (h : updateCfgOk s = true) : CprLegal s := by
  simp only [updateCfgOk, Bool.and_eq_true, decide_eq_true_eq, cprFits_iff] at h
  exact ⟨h.1.1.1.1.1.1, fun _ => h.1.1.1.1.1.2⟩

/-- UPDATE's gate lets a supported mode through exactly where the configuration is legal. -/
theorem updateLegal_iff (s : State) : UpdateLegal s ↔ updateGate s = none ∧ s.mode ≠ .unsupported := by
  constructor
  · intro h
    have hc := (cprFits_iff s).mpr h.cprFits
    have hd : legalDirection s.cfg.direction = true := by
      rcases h.direction with e | e | e <;> rw [e] <;> decide
    have hu : s.mode ≠ .unsupported := fun hu => (mode_unsupported_iff s).mp hu h.modeSupported
    have ha : alphaOkFor s.mode s = true := by
      unfold alphaOkFor
      split
      · rename_i v hv
        obtain ⟨a, b⟩ := h.alpha ⟨v, (mode_abs_iff s v).mp hv⟩
        simp [alphaOk, a, b]
      all_goals rfl
    refine ⟨?_, hu⟩
    simp [updateGate, updateCfgOk, periodOk, polePairsOk, circRangeOk, positiveFinite, hu, hc, hd, ha, h.cprPositive,
      h.periodFinite, h.periodPositive, h.polePairs, h.circRangeFinite, h.circRangePositive]
  · rintro ⟨hg, hu⟩
    rcases updateGate_none hg with h | hc
    · exact absurd h hu
    · simp only [updateCfgOk, periodOk, polePairsOk, circRangeOk, positiveFinite, Bool.and_eq_true,
        decide_eq_true_eq, cprFits_iff] at hc
      obtain ⟨⟨⟨⟨⟨⟨h0, hf⟩, hd⟩, hp⟩, hpp⟩, hr⟩, ha⟩ := hc
      refine ⟨?_, h0, hf, ?_, hp.1, hp.2, hpp, hr.1, hr.2, ?_⟩
      · by_contra hn
        exact hu ((mode_unsupported_iff s).mpr hn)
      · rw [legalDirection_iff] at hd
        rcases hd with e | e | e
        · exact .inl (BitVec.eq_of_toInt_eq (by rw [e]; rfl))
        · exact .inr (.inl (BitVec.eq_of_toInt_eq (by rw [e]; rfl)))
        · exact .inr (.inr (BitVec.eq_of_toInt_eq (by rw [e]; rfl)))
      · rintro ⟨v, hv⟩
        rw [(mode_abs_iff s v).mpr hv] at ha
        simpa only [alphaOkFor, alphaOk, Bool.and_eq_true] using ha

/-- UPDATE_PLL_GAINS's gate lets through exactly a legal bandwidth and period. -/
theorem gainsLegal_iff (s : State) : GainsLegal s ↔ gainsGate s = none := by
  have h : gainsGate s = none ↔ (bandwidthOk s && periodOk s) = true := by
    unfold gainsGate; split <;> simp_all
  rw [h]
  simp only [bandwidthOk, periodOk, positiveFinite, Bool.and_eq_true]
  exact ⟨fun h => ⟨⟨h.1, h.2⟩, h.3, h.4⟩, fun ⟨⟨a, b⟩, c, d⟩ => ⟨a, b, c, d⟩⟩

/-- The validity flags of R176 as one update. -/
theorem validityFlags_eq (s : State) :
    validityFlags s =
      { s with
        status.posValid := s.status.posValid || decide (s.error = 0)
        status.velValid := s.status.velValid || decide (s.error = 0) } := by
  unfold validityFlags
  split <;> simp_all

/-- Everything that an UPDATE which gives a next state can do, as one record: either the early exit of R147, or the
registers of steps 1 to 7 with the gains kept, the outputs kept while `IS_READY = 0`, and the validity flags of R176. -/
theorem execUpdate_frame {s t : State} (h : execUpdate s = .next t) :
    (∃ k hs b rate, t = finish .fail (raiseFault k { s with
        raw.hallState := hs, status.calibrateHallPhase := b, spi.errorRate := rate })) ∨
      ∃ hs c rate upd e, t = finish .ok
          { s with
            raw.hallState := hs
            hallCal := c
            spi.errorRate := rate
            est := e
            status.absSpiPosUpdated := upd
            status.posValid := s.status.posValid || decide (s.error = 0)
            status.velValid := s.status.velValid || decide (s.error = 0) } ∧
        e.kp = s.est.kp ∧ e.ki = s.est.ki ∧
        (s.isReady = false → e.phase = s.est.phase ∧ e.phaseVel = s.est.phaseVel) := by
  obtain ⟨hg, hf | ⟨d, l, u, a, v, hm, he, hp, rfl⟩⟩ := execUpdate_next h
  · exact .inl hf
  · right
    obtain ⟨hs, c, rate, upd, rfl⟩ := stepOne_moved hm
    obtain ⟨c', e, -, ht, rfl⟩ := estimate_track he
    obtain ⟨-, -, h3, h4, h1, h2, -⟩ := track_frame ht
    rcases emitPhase_ok hp with ⟨hr, rfl⟩ | ⟨hr, ph, -, rfl⟩
    · rw [validityFlags_eq]
      exact ⟨hs, c, rate, upd, e, rfl, h1, h2, fun _ => ⟨h3, h4⟩⟩
    · rw [validityFlags_eq]
      exact ⟨hs, c, rate, upd, { e with phase := ph, phaseVel := _ }, rfl, h1, h2, fun h => by
        rw [show s.isReady = true from hr] at h; cases h⟩

/-- An entry of a six-entry table after one is replaced. -/
theorem six_get_set {α : Type} (t : Six α) (k j : Fin 6) (x : α) :
    (t.set k x).get j = if j = k then x else t.get j := by
  fin_cases k <;> fin_cases j <;> rfl

/-- The optional linear offset writes three registers at most. -/
theorem linearOffset_frame {s u : State} (h : linearOffset s = .ok u) :
    ∃ a b c, u = { s with est.shadowCount := a, est.posEstimate := b, hwcnt := c } := by
  unfold linearOffset at h
  split at h
  · split at h
    · cases h
    · cases h; exact ⟨_, _, _, rfl⟩
  · cases h; exact ⟨_, _, _, rfl⟩

/-- An INDEX_PULSE that gives a next state is ignored, or performs the callback. -/
theorem execIndexPulse_cases {s t : State} (h : execIndexPulse s = .next t) :
    (t = finish .ok s ∧ (s.status.indexArmed && s.cfg.flags.useIndex) = false) ∨
      (s.status.indexArmed = true ∧ s.cfg.flags.useIndex = true ∧ indexGate s = none ∧
        ∃ u, linearOffset (writeCircular 0 s.params.indexUpdateOffset s) = .ok u ∧
          t = finish .ok (indexSeen (indexReadiness u))) := by
  simp only [execIndexPulse] at h
  split at h
  · cases h
  · rename_i hg
    split at h
    · rename_i ha
      simp only [Bool.and_eq_true] at ha
      split at h
      · cases h
      · rename_i u hu; cases h; exact .inr ⟨ha.1, ha.2, hg, u, hu, rfl⟩
    · rename_i hn; cases h; exact .inl ⟨rfl, by simpa using hn⟩

/-- A REG_WRITE that gives a next state wrote a register that the host may write. -/
theorem execRegWrite_cases {idx : BitVec 8} {v : Word} {s t : State} (h : execRegWrite idx v s = .next t) :
    ∃ r, Reg.ofIndex idx = some r ∧ r.hostClass ≠ .ro ∧ (r = .cfgDirection → legalDirection v = true) ∧
      t = finish .ok (writeContent r v s) := by
  simp only [execRegWrite] at h
  split at h
  · cases h
  · rename_i r hr
    split at h
    · cases h
    · rename_i h1
      split at h
      · cases h
      · rename_i h2; cases h
        exact ⟨r, hr, h1, fun hd => by
          by_contra hl
          exact h2 ⟨hd, by simpa using hl⟩, rfl⟩

/-- The index of a register names it (10_state.md R22). -/
theorem ofIndex_index (r : Reg) : Reg.ofIndex r.index = some r := by
  cases r <;> first | rfl | (rename_i k; revert k; decide)

/-- What REG_READ shows in place of a NaN is a NaN (log 9). -/
theorem freeNan_isNaN (n : Nat) (idx : BitVec 8) (c : Word) : (F32.mk (freeNan n idx c)).isNaN = true := by
  unfold freeNan
  split
  · assumption
  · decide

end Sys2Proof.Machine
end

