-- ==== Sys2Proof/Laws/HostProcedures.lean ====
section
/-! SUPPORT. What the host's procedures can do: how parts of one compose, how each of the five ends, and what a failure
leaves behind (46_calibration.md). -/

namespace Sys2Proof.Machine

/-! Composition. -/

@[simp] theorem andThen_next_left {α β : Type} (a : α) (k : α → Host.Outcome β Fault Refusal) :
    andThen (.next a) k = k a := rfl

@[simp] theorem andThen_refused_left {α β : Type} (r : Refusal) (k : α → Host.Outcome β Fault Refusal) :
    andThen (.refused r) k = .refused r := rfl

/-- Two parts that end in `b` pass through one state between them. -/
theorem andThen_next {α β : Type} {o : Host.Outcome α Fault Refusal} {k : α → Host.Outcome β Fault Refusal} {b : β}
    (h : andThen o k = .next b) : ∃ a, o = .next a ∧ k a = .next b := by
  cases o with
  | next a => exact ⟨a, rfl, h⟩
  | fault f => cases f
  | refused r => cases h

/-- A procedure and its continuation, where both end, meet in one scene. -/
theorem followedBy_next {α β : Type} {p : Procedure α} {k : α → Procedure β} {w : Scene} {r : β × Scene}
    (h : followedBy p k w = .next r) : ∃ a v, p w = .next (a, v) ∧ k a v = .next r := by
  obtain ⟨⟨a, v⟩, hp, hk⟩ := andThen_next h
  exact ⟨a, v, hp, hk⟩

theorem followedBy_of_next {α β : Type} {p : Procedure α} {k : α → Procedure β} {w v : Scene} {a : α}
    (h : p w = .next (a, v)) : followedBy p k w = k a v := by
  simp [followedBy, h]

/-- An operation of the host that ends: the state it finds once its interval has passed, and its meaning there. -/
theorem perform_next {i : Instr} {w : Scene} {r : Outputs × Scene} (h : perform i w = .next r) :
    ∃ abort v, elapse w = .next (abort, v) ∧ exec i (enter i v.block.ports v.block) = .next r.2.block ∧
      r.1 = r.2.block.out ∧ r.2.intervals = v.intervals := by
  obtain ⟨abort, v, he, hi⟩ := followedBy_next h
  obtain ⟨t, ht, hr⟩ := andThen_next hi
  cases hr
  exact ⟨abort, v, he, ht, rfl, rfl⟩

/-- With nothing happening before it, an operation of the host is its meaning on the block, with its free draw taken. -/
theorem perform_quiet {i : Instr} {s t : State} (h : exec i { s with draws := nextDraw i s.draws } = .next t) :
    perform i ⟨s, []⟩ = .next (t.out, ⟨t, []⟩) := by
  simp only [perform, followedBy, elapse, issue, performEvent, enter, andThen_next_left, h]

theorem performEach_cons (i : Instr) (is : List Instr) (w : Scene) :
    performEach (i :: is) w = followedBy (perform i) (fun _ => performEach is) w := rfl

/-- The host's operations split anywhere: what comes between them is where they are split too (46_calibration.md R241). -/
theorem performEach_append (is js : List Instr) (w : Scene) :
    performEach (is ++ js) w = followedBy (performEach is) (fun _ => performEach js) w := by
  induction is generalizing w with
  | nil => rfl
  | cons i is ih =>
    simp only [List.cons_append, performEach_cons, followedBy]
    cases perform i w with
    | next r => exact ih r.2
    | fault f => cases f
    | refused r => rfl

/-- A procedure that ends has performed what it issues last, and returns its outcome. -/
theorem conclude_next {e : ProcedureEnd} {w : Scene} {r : Bool × Scene} (h : conclude e w = .next r) :
    performEach e.issues w = .next ((), r.2) ∧ r.1 = e.succeeded := by
  obtain ⟨⟨⟩, v, hp, hr⟩ := followedBy_next h
  cases hr
  exact ⟨hp, rfl⟩

/-- REG_READ of a register by its name changes the outputs only. -/
theorem exec_regReadOf (r : Reg) (s : State) :
    exec (regReadOf r) s = .next { s with out := { Outputs.plain .ok with rdata := some (regValue r s) } } := by
  simp [exec, regReadOf, execRegRead, ofIndex_index]

/-- A read after whatever comes before it is that operation performed. -/
theorem readReg_eq (r : Reg) :
    readReg r = followedBy (perform (regReadOf r)) fun o => answer (o.rdata.getD 0) := by
  funext w
  simp only [readReg, readNow, perform, followedBy]
  cases elapse w with
  | next a => rfl
  | fault f => rfl
  | refused r => rfl

/-- The host's read of a register answers its value. -/
theorem readReg_quiet (r : Reg) (s : State) :
    readReg r ⟨s, []⟩ = .next (regValue r s,
      ⟨{ s with out := { Outputs.plain .ok with rdata := some (regValue r s) } }, []⟩) := by
  rw [readReg_eq, followedBy_of_next (perform_quiet (exec_regReadOf r _))]
  rfl

/-! How each procedure ends. -/

@[simp] theorem succeedWith_succeeded (is : List Instr) : (succeedWith is).succeeded = true := rfl

@[simp] theorem succeedWith_issues (is : List Instr) : (succeedWith is).issues = is := rfl

@[simp] theorem failWith_succeeded (is : List Instr) : (failWith is).succeeded = false := rfl

@[simp] theorem failWith_issues (is : List Instr) : (failWith is).issues = is := rfl

/-- RAISE_ERROR of one kind is the raise of that kind. -/
theorem exec_raiseOf (k : FaultKind) (s : State) : exec (raiseOf k) s = .next (finish .ok (raiseFault k s)) := by
  cases k <;> rfl

/-- A failure with a fault kind ends right after that raise, so its bit stands, and the raise writes no `cal` register but
`IS_READY` (46_calibration.md R241). -/
theorem conclude_failRaising {k : FaultKind} {w : Scene} {r : Bool × Scene} (h : conclude (failRaising k) w = .next r) :
    r.1 = false ∧ ∃ s, r.2.block = finish .ok (raiseFault k s) := by
  obtain ⟨hp, hs⟩ := conclude_next h
  obtain ⟨o, v, hi, ht⟩ := followedBy_next (p := perform (raiseOf k)) hp
  cases ht
  obtain ⟨-, u, -, hx, -⟩ := perform_next hi
  rw [exec_raiseOf] at hx
  exact ⟨hs, enter (raiseOf k) u.block.ports u.block, (Host.Outcome.next.inj hx).symm⟩

/-- A check that raises something ends the procedure in failure, the rest not performed (46_calibration.md R241). -/
theorem checked_some {check : Procedure (Option FaultKind)} {rest : Procedure Bool} {w v : Scene} {k : FaultKind}
    (h : check w = .next (some k, v)) : checked check rest w = conclude (failRaising k) v := by
  rw [checked, followedBy_of_next h]

/-- An aborted procedure always fails (46_calibration.md R242). -/
@[simp] theorem abortEnd_fails (armed sampling : Bool) : (abortEnd armed sampling).succeeded = false := rfl

/-- What an abort issues disarms and nothing else: no `cal` register is written and no fault raised (46_calibration.md
R242). -/
theorem abortEnd_issues {armed sampling : Bool} {i : Instr} (h : i ∈ (abortEnd armed sampling).issues) :
    (armed = true ∧ i = .disarmIndex) ∨ (sampling = true ∧ i = .hallcalStop) := by
  cases armed <;> cases sampling <;> simp_all [abortEnd]

/-- A spin that was aborted ends the procedure in failure, the rest not performed (46_calibration.md R242). -/
theorem unlessAborted_none {α : Type} {armed sampling : Bool} {spin : Procedure (Option α)} {rest : α → Procedure Bool}
    {w v : Scene} (h : spin w = .next (none, v)) :
    unlessAborted armed sampling spin rest w = conclude (abortEnd armed sampling) v := by
  rw [unlessAborted, followedBy_of_next h]

/-- A spin that ran its length goes on with what it saw. -/
theorem unlessAborted_some {α : Type} {armed sampling : Bool} {spin : Procedure (Option α)} {rest : α → Procedure Bool}
    {w v : Scene} {a : α} (h : spin w = .next (some a, v)) : unlessAborted armed sampling spin rest w = rest a v := by
  rw [unlessAborted, followedBy_of_next h]

/-- The Hall polarity calibration commits the mask and its flag together, or fails with the illegal-state fault
(46_calibration.md R243). -/
theorem hallPolarityEnd_cases (counts : List Nat) :
    (∃ m, seenStates counts = confirmedStates counts ∧ polarityOf (confirmedStates counts) = some m ∧
        hallPolarityEnd counts =
          succeedWith [regWriteOf .cfgHallPolarity (m.setWidth 32), regWriteOf .hallPolarityCalibrated 1]) ∨
      hallPolarityEnd counts = failRaising .illegalHallState := by
  unfold hallPolarityEnd
  split
  · rename_i h
    split
    · rename_i m hm; exact .inl ⟨m, h, hm, rfl⟩
    · exact .inr rfl
  · exact .inr rfl

/-- An edge re-based on itself is at 0. -/
theorem edgeCounts_self (x : Rat) : edgeCounts x x = 0 := by
  have h : Rat.floor 0 = 0 := by decide
  simp [edgeCounts, modReal, h]

/-- Edge 0 is at 0, in the exact table and in the one written (46_calibration.md R245). -/
theorem edges_e0 (round : Rat → F32) (acc : Six F32) :
    (exactEdges acc).e0 = 0 ∧ (roundedEdges round acc).e0 = F32.zero :=
  ⟨edgeCounts_self _, rfl⟩

/-- The Hall phase calibration succeeds exactly where every edge was sampled and no transition was ambiguous
(46_calibration.md R245). -/
theorem hallPhaseEnd_succeeded (round : Rat → F32) (acc : Six F32) (seen : Six Word) (ambiguous : Bool) :
    (hallPhaseEnd round acc seen ambiguous).succeeded = true ↔ edgeUnsampled seen = false ∧ ambiguous = false := by
  unfold hallPhaseEnd
  cases edgeUnsampled seen <;> cases ambiguous <;> simp

/-- The index search succeeds exactly where the index was found (46_calibration.md R248). -/
theorem indexSearchEnd_succeeded (found : Bool) : (indexSearchEnd found).succeeded = found := by
  cases found <;> rfl

/-- An index search whose subscribe the GPIO controller refuses fails at once, nothing armed (46_calibration.md R248). -/
theorem indexSearch_unsubscribed (periods : Nat) (s : State) (h : s.ports.subscribeOk = false) :
    ∃ t, indexSearch periods ⟨s, []⟩ = .next (false, ⟨t, []⟩) ∧ t.status = s.status := by
  have hx : exec .armIndex { s with draws := nextDraw .armIndex s.draws } = .next
      { s with
        draws := nextDraw .armIndex s.draws
        out := { Outputs.plain .fail with
          gpio := some (.subscribe s.params.indexEdgePolarity s.params.indexPull) } } := by
    simp [exec, execArmIndex, h]
  rw [indexSearch, followedBy_of_next (perform_quiet hx)]
  exact ⟨_, rfl, rfl⟩

/-- The motion check passes from the threshold on (46_calibration.md R251). -/
theorem motionCheck_none (threshold d : Int) : motionCheck threshold d = none ↔ threshold ≤ |d| := by
  unfold motionCheck
  split <;> simp <;> omega

/-- The count check passes within the tolerance of `CFG_CALIB_RANGE` (46_calibration.md R251). -/
theorem countCheck_none (form : ToleranceForm) (range : F32) (expected : Rat) (d : Int) :
    countCheck form range expected d = none ↔ |(|d| : Rat) - expected| ≤ offsetTolerance form range expected := by
  unfold countCheck
  split <;> simp_all

/-- REG_WRITE of a register that the host may write, by its name. -/
theorem exec_regWriteOf {r : Reg} {v : Word} (s : State) (h : r.hostClass ≠ .ro)
    (hd : r = .cfgDirection → legalDirection v = true) :
    exec (regWriteOf r v) s = .next (finish .ok (writeContent r v s)) := by
  have hd' : ¬ (r = .cfgDirection ∧ legalDirection v = false) := fun ⟨e, hl⟩ => by simp [hd e] at hl
  simp [exec, regWriteOf, execRegWrite, ofIndex_index, h, hd']

/-- The host's write of a register that it may write, with nothing before it. -/
theorem perform_regWriteOf {r : Reg} {v : Word} (s : State) (h : r.hostClass ≠ .ro)
    (hd : r = .cfgDirection → legalDirection v = true) :
    perform (regWriteOf r v) ⟨s, []⟩ =
      .next (Outputs.plain .ok, ⟨finish .ok (writeContent r v { s with draws := s.draws + 1 }), []⟩) :=
  perform_quiet (exec_regWriteOf _ h hd)

/-- The host's write of one edge, with nothing before it. -/
theorem perform_writeEdge (k : Fin 6) (x : F32) (s : State) :
    perform (regWriteOf (.cfgHallEdge k) x.bits) ⟨s, []⟩ = .next (Outputs.plain .ok,
      ⟨finish .ok { s with cfg.hallEdge := s.cfg.hallEdge.set k x, draws := s.draws + 1 }, []⟩) :=
  perform_regWriteOf s (by simp [Reg.hostClass]) (fun h => by cases h)

/-- The whole edge table written with nothing between the writes (46_calibration.md R245, R246): that table, and nothing
else changed but the outputs and the draws. -/
theorem performEach_writeEdges (t : Six F32) (s : State) :
    performEach (writeEdges t) ⟨s, []⟩ =
      .next ((), ⟨finish .ok { s with cfg.hallEdge := t, draws := s.draws + 6 }, []⟩) := by
  simp [writeEdges, performEach_cons, followedBy, perform_writeEdge, performEach, answer, finish, Six.set]

/-- The commit of the offset calibration with nothing between the writes (46_calibration.md R252), with a direction that R251
can give. -/
theorem performEach_offsetCommit (direction : Word) (samples : List Int) (fraction : F32) (s : State)
    (h : legalDirection direction = true) :
    performEach (offsetCommit direction samples fraction) ⟨s, []⟩ =
      .next ((), ⟨finish .ok
        { s with
          cfg.direction := direction
          cfg.phaseOffset := wrap32 (offsetInteger samples)
          cfg.phaseOffsetFloat := fraction
          isReady := true
          draws := s.draws + 4 }, []⟩) := by
  have d (u : State) := perform_regWriteOf (r := .cfgDirection) u (by decide) fun _ => h
  have o (v : Word) (u : State) := perform_regWriteOf (r := .cfgPhaseOffset) (v := v) u (by decide) (fun e => by cases e)
  have f (v : Word) (u : State) :=
    perform_regWriteOf (r := .cfgPhaseOffsetFloat) (v := v) u (by decide) (fun e => by cases e)
  have r (u : State) := perform_regWriteOf (r := .isReady) (v := 1#32) u (by decide) (by decide)
  simp [offsetCommit, performEach_cons, followedBy, d, o, f, r, performEach, answer, finish, writeContent]

/-- The direction that a sweep gives is legal (46_calibration.md R251, 10_state.md R41). -/
theorem sweepDirection_legal (d : Int) : legalDirection (sweepDirection d) = true := by
  rcases Int.lt_trichotomy d 0 with h | rfl | h
  · simp only [sweepDirection, Int.sign_eq_neg_one_of_neg h]; decide
  · decide
  · simp only [sweepDirection, Int.sign_eq_one_of_pos h]; decide

end Sys2Proof.Machine
end

