-- ==== Sys2Proof/Laws/PerInstr.lean ====
section
/-! SUPPORT. Statements made for every operation, one lemma per constructor. -/

namespace Sys2Proof.Laws.FieldsAdmitted

/-- The fields an operation encodes to carry its own code and leave every field its format does not use at zero
(30_encoding.md R102, R104). -/
def Statement (i : Instr) : Prop :=
  Op.ofCode i.fields.op = some i.op ∧ i.op.unusedZero i.fields = true

theorem sample : Statement .sample := ⟨rfl, rfl⟩

theorem update : Statement .update := ⟨rfl, rfl⟩

theorem indexPulse : Statement .indexPulse := ⟨rfl, rfl⟩

theorem spiDone (ok : Bool) (frame : BitVec 16) : Statement (.spiDone ok frame) := ⟨rfl, by
  simp [Op.unusedZero, Op.usesIdx, Op.usesFlag, Op.dataBits, Instr.op, Instr.fields]
  have := frame.isLt
  omega⟩

theorem countUp : Statement .countUp := ⟨rfl, rfl⟩

theorem countDown : Statement .countDown := ⟨rfl, rfl⟩

theorem setLinearCount (n : BitVec 32) : Statement (.setLinearCount n) := ⟨rfl, by
  simp [Op.unusedZero, Op.usesIdx, Op.usesFlag, Op.dataBits, Instr.op, Instr.fields, n.isLt]⟩

theorem setCircularCount (n : BitVec 32) (u : Bool) : Statement (.setCircularCount n u) := ⟨rfl, by
  simp [Op.unusedZero, Op.usesIdx, Op.usesFlag, Op.dataBits, Instr.op, Instr.fields, n.isLt]⟩

theorem updatePllGains : Statement .updatePllGains := ⟨rfl, rfl⟩

theorem raiseError (mask : BitVec 8) : Statement (.raiseError mask) := ⟨rfl, by
  simp [Op.unusedZero, Op.usesIdx, Op.usesFlag, Op.dataBits, Instr.op, Instr.fields]
  have := mask.isLt
  omega⟩

theorem clearErrors : Statement .clearErrors := ⟨rfl, rfl⟩

theorem armIndex : Statement .armIndex := ⟨rfl, rfl⟩

theorem disarmIndex : Statement .disarmIndex := ⟨rfl, rfl⟩

theorem hallcalStart : Statement .hallcalStart := ⟨rfl, rfl⟩

theorem hallcalStop : Statement .hallcalStop := ⟨rfl, rfl⟩

theorem regRead (idx : BitVec 8) : Statement (.regRead idx) := ⟨rfl, rfl⟩

theorem regWrite (idx : BitVec 8) (value : BitVec 32) : Statement (.regWrite idx value) := ⟨rfl, by
  simp [Op.unusedZero, Op.usesIdx, Op.usesFlag, Op.dataBits, Instr.op, Instr.fields, value.isLt]⟩

end Sys2Proof.Laws.FieldsAdmitted
end

