-- ==== Sys2Proof/Machine/Trace.lean ====
section
/-! DEFINITION. The trace syntax of 30_encoding.md R112: one operation per line, the agent, a colon, the mnemonic and the
operands. -/

namespace Sys2Proof

/-- An agent as a trace writes it (30_encoding.md R112). -/
def Agent.name (a : Agent) : String :=
  match a with
  | .tick => "TICK"
  | .loop => "LOOP"
  | .index => "INDEX"
  | .spicb => "SPICB"
  | .enc => "ENC"
  | .host => "HOST"

/-- The mnemonic of an operation (30_encoding.md R104). -/
def Op.mnemonic (o : Op) : String :=
  match o with
  | .sample => "SAMPLE"
  | .update => "UPDATE"
  | .indexPulse => "INDEX_PULSE"
  | .spiDone => "SPI_DONE"
  | .countUp => "COUNT_UP"
  | .countDown => "COUNT_DOWN"
  | .setLinearCount => "SET_LINEAR_COUNT"
  | .setCircularCount => "SET_CIRCULAR_COUNT"
  | .updatePllGains => "UPDATE_PLL_GAINS"
  | .raiseError => "RAISE_ERROR"
  | .clearErrors => "CLEAR_ERRORS"
  | .armIndex => "ARM_INDEX"
  | .disarmIndex => "DISARM_INDEX"
  | .hallcalStart => "HALLCAL_START"
  | .hallcalStop => "HALLCAL_STOP"
  | .regRead => "REG_READ"
  | .regWrite => "REG_WRITE"

/-- A bit as a trace writes it. -/
def bitText (b : Bool) : String := if b then "1" else "0"

/-- A number in `digits` hexadecimal digits. -/
def hexText (digits n : Nat) : String :=
  "0x" ++ String.ofList (List.replicate (digits - (Nat.toDigits 16 n).length) '0' ++ Nat.toDigits 16 n)

/-- A register by its name; a reserved index, which has none, by its number. -/
def regText (idx : BitVec 8) : String :=
  match Reg.ofIndex idx with
  | some r => r.name
  | none => hexText 2 idx.toNat

/-- A register value by the register's type: decimal, or the 8-digit pattern with the suffix `f`. -/
def valueText (idx : BitVec 8) (v : Word) : String :=
  match (Reg.ofIndex idx).map Reg.type with
  | some .s32 => toString v.toInt
  | some .f32 => hexText 8 v.toNat ++ "f"
  | some (.u _) => toString v.toNat
  | some .flags => hexText 2 v.toNat
  | none => hexText 8 v.toNat

/-- The operands of an operation (30_encoding.md R112). -/
def Instr.operandText (i : Instr) : String :=
  match i with
  | .spiDone ok frame => " " ++ bitText ok ++ ", " ++ hexText 4 frame.toNat
  | .setLinearCount n => " " ++ toString n.toInt
  | .setCircularCount n u => " " ++ toString n.toInt ++ ", " ++ bitText u
  | .raiseError mask => " " ++ hexText 2 mask.toNat
  | .regRead idx => " " ++ regText idx
  | .regWrite idx value => " " ++ regText idx ++ ", " ++ valueText idx value
  | .sample => ""
  | .update => ""
  | .indexPulse => ""
  | .countUp => ""
  | .countDown => ""
  | .updatePllGains => ""
  | .clearErrors => ""
  | .armIndex => ""
  | .disarmIndex => ""
  | .hallcalStart => ""
  | .hallcalStop => ""

/-- One line of a trace (30_encoding.md R112). -/
def Instr.trace (i : Instr) : String := i.agent.name ++ ": " ++ i.op.mnemonic ++ i.operandText

end Sys2Proof
end

