-- ==== Sys2Proof/Tests/Slice0.lean ====
section
/-! SUPPORT. The model's own tests: words written out from 30_encoding.md, one step each on a small state with the results
of 95_test_vectors.md, ill-formed terms, and one witness for the hypotheses of each statement. -/

namespace Sys2Proof.Tests

open Sys2Proof.Machine

/-- The next state of an outcome. -/
def nextOf (x : Host.Outcome State Fault Refusal) : Option State :=
  match x with
  | .next t => some t
  | .fault _ => none
  | .refused _ => none

/-- Why an outcome is REFUSED. -/
def refusalOf (x : Host.Outcome State Fault Refusal) : Option Refusal :=
  match x with
  | .next _ => none
  | .fault _ => none
  | .refused r => some r

/-- What an operation leaves, seen through `f`. -/
def seen {α : Type} (f : State → α) (i : Instr) (s : State) : Option α := (nextOf (exec i s)).map f

/-- The standard incremental configuration of 95_test_vectors.md ("config S"), its gains set, direction 1, after reset, the
counter and the receive buffer at 0. -/
def base : State :=
  { State.reset with
    cfg.cpr := 8192
    cfg.bandwidth := ⟨0x447A0000⟩
    cfg.direction := 1
    cfg.flags := CfgFlags.ofWord 4
    plat := { period := ⟨0x39000000⟩, polePairs := 7, circRange := ⟨0x3F800000⟩, spiErrAlpha := ⟨0x3C800000⟩ }
    written := ⟨true, true, true, true, true, true, true, true, true, true, true, true⟩
    est.kp := ⟨0x44FA0000⟩
    est.ki := ⟨0x49742400⟩
    spi.rx := 0
    hwcnt := 0 }

/-- The start of the first tick of program P1. -/
def tickOne : State := { base with raw.timCntSample := 4, isReady := true }

/-- Hall mode, with a snapshot on the port. -/
def hall (snapshot : BitVec 3) : State :=
  { base with cfg.mode := 1, cfg.cpr := 6, cfg.flags := CfgFlags.ofWord 0, ports.hallSnapshot := snapshot }

/-- Hall mode while the phase calibration samples, with an open-loop phase on the port. -/
def hallCalibrating (snapshot : BitVec 3) (last : Word) (phase : BitVec 32) : State :=
  { hall snapshot with
    status.calibrateHallPhase := true
    hallCal.lastHallCnt := last
    ports.olPhaseValid := true
    ports.olPhase := ⟨phase⟩ }

/-- The first absolute-SPI mode. -/
def absolute : State := { base with cfg.mode := 0x100, cfg.cpr := 16384 }

/-- Sin/cos mode with one count per revolution, so that the parameter function has one value. -/
def sincos : State := { base with cfg.mode := 2, cfg.cpr := 1 }

/-- The index interrupt armed and used, with a count and an offset. -/
def indexed : State :=
  { base with
    cfg.flags := CfgFlags.ofWord 1, cfg.phaseOffset := 40, est.countInCpr := 100, status.indexArmed := true }

/-- A word presented by an agent. -/
def asked (a : Agent) (w : BitVec 64) (s : State) : State := { s with pending := [⟨a, w, s.ports⟩] }

/-! Decoding: the words of 95_test_vectors.md 2.1, `W = D << 32 | f << 16 | idx << 8 | op`. -/

theorem test_decode_sample : decode 0x0000000000000001 = .ok .sample := by decide
theorem test_decode_update : decode 0x0000000000000002 = .ok .update := by decide
theorem test_decode_index_pulse : decode 0x0000000000000010 = .ok .indexPulse := by decide
theorem test_decode_spi_done : decode 0x0000812300010011 = .ok (.spiDone true 0x8123) := by decide
theorem test_decode_spi_done_failed : decode 0x0000800800000011 = .ok (.spiDone false 0x8008) := by decide
theorem test_decode_count_up : decode 0x0000000000000012 = .ok .countUp := by decide
theorem test_decode_count_down : decode 0x0000000000000013 = .ok .countDown := by decide
theorem test_decode_set_linear : decode 0xFFFFFFFF00000020 = .ok (.setLinearCount (-1)) := by decide
theorem test_decode_set_circular : decode 0x0000000000010021 = .ok (.setCircularCount 0 true) := by decide
theorem test_decode_gains : decode 0x0000000000000022 = .ok .updatePllGains := by decide
theorem test_decode_raise : decode 0x0000001000000023 = .ok (.raiseError 0x10) := by decide
theorem test_decode_clear : decode 0x0000000000000024 = .ok .clearErrors := by decide
theorem test_decode_arm : decode 0x0000000000000025 = .ok .armIndex := by decide
theorem test_decode_disarm : decode 0x0000000000000026 = .ok .disarmIndex := by decide
theorem test_decode_hallcal_start : decode 0x0000000000000027 = .ok .hallcalStart := by decide
theorem test_decode_hallcal_stop : decode 0x0000000000000028 = .ok .hallcalStop := by decide
theorem test_decode_reg_read : decode 0x0000000000002030 = .ok (.regRead 0x20) := by decide
theorem test_decode_reg_write : decode 0x447A000000000231 = .ok (.regWrite 0x02 0x447A0000) := by decide

/-! V-E22 to V-E29: words that encode nothing. -/

theorem test_reserved_code : decode 0x0000000000000003 = .error .unknownOp := by decide
theorem test_reserved_data : decode 0x0000000100000001 = .error .reservedBitSet := by decide
theorem test_reserved_bit17 : decode 0x0000000000020002 = .error .reservedBitSet := by decide
theorem test_reserved_frame : decode 0x0001812300010011 = .error .reservedBitSet := by decide
theorem test_reserved_mask : decode 0x0000010000000023 = .error .reservedBitSet := by decide
theorem test_reserved_read : decode 0x0000000100002030 = .error .reservedBitSet := by decide
theorem test_reserved_flag : decode 0x0000000000010020 = .error .reservedBitSet := by decide

/-! WellFormed: an ill-formed term for each check (30_encoding.md R108). -/

theorem test_ill_formed_reserved_read : Instr.wellFormed (.regRead 0x41) = false := by decide
theorem test_ill_formed_reserved_write : Instr.wellFormed (.regWrite 0x15 0) = false := by decide
theorem test_ill_formed_read_only : Instr.wellFormed (.regWrite 0x20 5) = false := by decide
theorem test_ill_formed_direction : Instr.wellFormed (.regWrite 0x03 2) = false := by decide
theorem test_well_formed_direction : Instr.wellFormed (.regWrite 0x03 0xFFFFFFFF) = true := by decide

/-! The number system: 95_test_vectors.md V-P5 to V-P11, the examples of 42_pll.md R166 and R174. -/

theorem test_wrap_pm_tie : F32.wrapPm ⟨0xC5800000⟩ ⟨0x46000000⟩ = some ⟨0x45800000⟩ := by decide
theorem test_wrap_pm_phase : F32.wrapPm ⟨0x40600000⟩ F32.twoPi = some ⟨0xC0321FB6⟩ := by decide
theorem test_fmod_pos_clamp : F32.fmodPos ⟨0x8DA24260⟩ ⟨0x46000000⟩ = ⟨0⟩ := by decide
theorem test_radians_per_count : radiansPerCount base = ⟨0x3BAFEDE0⟩ := by decide
theorem test_round_to_even : F32.ofInt 16777217 = ⟨0x4B800000⟩ := by decide
theorem test_hall_model_above : hallModelDefault ⟨0x414F3333⟩
    ⟨⟨0⟩, ⟨0x3F666666⟩, ⟨0x40066666⟩, ⟨0x40400000⟩, ⟨0x40800000⟩, ⟨0x40A00000⟩⟩ 12 = 13 := by decide
theorem test_hall_model_below : hallModelDefault ⟨0x4160CCCD⟩
    ⟨⟨0⟩, ⟨0x3F666666⟩, ⟨0x40066666⟩, ⟨0x40400000⟩, ⟨0x40800000⟩, ⟨0x40A00000⟩⟩ 14 = 13 := by decide

/-! One step each, at most two for an operation; the results are those of the vector named. -/

/-- V-S1. -/
theorem test_sample_incremental :
    seen (fun t => t.raw.timCntSample) .sample { base with hwcnt := 0x1234 } = some 0x1234 := by decide
/-- V-S3. -/
theorem test_sample_sincos :
    seen (fun t => (t.raw.sincosS, t.raw.sincosC)) .sample
      { base with cfg.mode := 2, ports.adcSin := ⟨0x3F400000⟩, ports.adcCos := ⟨0⟩ } =
      some (⟨0x3E800000⟩, ⟨0xBF000000⟩) := by decide
/-- The first tick of P1: the count-domain registers. -/
theorem test_update_counts :
    seen (fun t => (t.est.shadowCount, t.est.countInCpr, t.est.posEstimate, t.est.velEstimate)) .update tickOne =
      some (4, 4, ⟨0x3F7A0000⟩, ⟨0x43F42400⟩) := by decide +kernel
/-- The first tick of P1: the phase outputs. -/
theorem test_update_phase :
    seen (fun t => (t.est.phase, t.est.phaseVel)) .update tickOne = some (⟨0x3CAFEDE0⟩, ⟨0x4027C777⟩) := by decide +kernel
/-- V-Y4. -/
theorem test_index_pulse :
    seen (fun t => (t.est.countInCpr, t.cfg.phaseOffset, t.est.shadowCount, t.hwcnt)) .indexPulse
      { indexed with cfg.flags := CfgFlags.ofWord 0x11, cfg.indexOffset := ⟨0x3E800000⟩ } =
      some (0, -60, 2048, 0x0800) := by decide
/-- V-Y7. -/
theorem test_index_pulse_no_shift :
    seen (fun t => (t.est.countInCpr, t.cfg.phaseOffset, t.isReady, t.indexFound)) .indexPulse
      { indexed with isReady := true, params.indexUpdateOffset := false } = some (0, 40, false, true) := by decide
/-- The toy decoder of 95_test_vectors.md 2.7. -/
def toyDecoder (_v : Nat) (f : BitVec 16) : Option (BitVec 14) := if f.getLsbD 15 then some (f.setWidth 14) else none
/-- V-A1. -/
theorem test_spi_done_accepted :
    (nextOf (spiCompletion toyDecoder true 0x8123 { absolute with status.spiInflight := true })).map
      (fun t => (t.spi.posAbs, t.status.absSpiPosUpdated, t.status.spiInflight)) = some (291, true, false) := by decide
/-- V-A2. -/
theorem test_spi_done_failed :
    seen (fun t => (t.spi.posAbs, t.status.absSpiPosUpdated, t.status.spiInflight)) (.spiDone false 0x8125)
      { absolute with status.spiInflight := true, spi.posAbs := 291 } = some (291, false, false) := by decide
/-- V-Y14. -/
theorem test_count_up : seen (fun t => t.hwcnt) .countUp { base with hwcnt := 0xFFFF } = some 0 := by decide
/-- V-Y14. -/
theorem test_count_down : seen (fun t => t.hwcnt) .countDown { base with hwcnt := 0 } = some 0xFFFF := by decide
/-- V-H8. -/
theorem test_set_linear :
    seen (fun t => (t.est.shadowCount, t.est.posEstimate, t.hwcnt)) (.setLinearCount 0x12345) base =
      some (74565, ⟨0x4791A280⟩, 0x2345) := by decide
/-- V-H11. -/
theorem test_set_linear_rounds :
    seen (fun t => (t.est.posEstimate, t.hwcnt)) (.setLinearCount 0x01000003) base = some (⟨0x4B800002⟩, 3) := by decide
/-- V-H4. -/
theorem test_set_circular : seen (fun t => t.est.countInCpr) (.setCircularCount 0xFFFFDFFF false) base = some 8191 := by decide
/-- V-H7. -/
theorem test_set_circular_shift :
    seen (fun t => (t.est.countInCpr, t.cfg.phaseOffset)) (.setCircularCount 0 true)
      { base with est.countInCpr := 100, cfg.phaseOffset := 5 } = some (0, -95) := by decide
/-- V-P2. -/
theorem test_gains_stable :
    seen (fun t => (t.est.kp, t.est.ki, t.error)) .updatePllGains { base with cfg.bandwidth := ⟨0x457FFC00⟩ } =
      some (⟨0x45FFFC00⟩, ⟨0x4B7FF800⟩, 0) := by decide
/-- V-P3. -/
theorem test_gains_unstable :
    seen (fun t => (t.est.kp, t.est.ki, t.error)) .updatePllGains { base with cfg.bandwidth := ⟨0x45800000⟩ } =
      some (⟨0x46000000⟩, ⟨0x4B800000⟩, 1) := by decide
/-- V-Y9. -/
theorem test_raise : seen (fun t => t.error) (.raiseError 0x41) { base with error := 2 } = some 0x43 := by decide
/-- V-Y8. -/
theorem test_raise_invalidates :
    seen (fun t => (t.status.toWord, t.isReady)) (.raiseError 0x10)
      { base with status.posValid := true, status.velValid := true, isReady := true } = some (0, false) := by decide
/-- V-Y10. -/
theorem test_clear : seen (fun t => (t.error, t.isReady)) .clearErrors { base with error := 6 } = some (0, false) := by decide
/-- V-Y11. -/
theorem test_arm :
    seen (fun t => (t.status.indexArmed, t.out.result)) .armIndex { base with ports.subscribeOk := true } =
      some (true, .ok) := by decide
/-- V-Y11. -/
theorem test_arm_fails : seen (fun t => (t.status.indexArmed, t.out.result, t.error)) .armIndex base =
    some (false, .fail, 0) := by decide
/-- 45_system.md R225. -/
theorem test_disarm : seen (fun t => t.status.indexArmed) .disarmIndex indexed = some false := by decide
/-- V-Y15. -/
theorem test_hallcal_start :
    seen (fun t => (t.hallCal.seen, t.hallCal.lastHallCnt, t.status.calibrateHallPhase)) .hallcalStart
      { base with hallCal.lastHallCnt := 2, hallCal.seen := Six.all 3 } = some (Six.all 0, -1, true) := by decide
/-- 45_system.md R227. -/
theorem test_hallcal_stop :
    seen (fun t => (t.status.calibrateHallPhase, t.hallCal.lastHallCnt)) .hallcalStop (hallCalibrating 1 2 0) =
      some (false, 2) := by decide
/-- V-Y12. -/
theorem test_reg_read : seen (fun t => t.out.rdata) (.regRead 0x20) { base with est.shadowCount := -3 } =
    some (some 0xFFFFFFFD) := by decide
/-- V-Y8: `STATUS` reads as 0x18. -/
theorem test_reg_read_status :
    seen (fun t => t.out.rdata) (.regRead 0x31) { base with status.posValid := true, status.velValid := true } =
      some (some 0x18) := by decide
/-- V-E18. -/
theorem test_reg_write : seen (fun t => (t.cfg.cpr, t.written.cpr)) (.regWrite 0x01 0x2000) State.reset =
    some (0x2000, true) := by decide
/-- 45_system.md R231: a narrower register takes its low bits. -/
theorem test_reg_write_narrow : seen (fun t => t.cfg.hallPolarity) (.regWrite 0x0C 0xFFFFFFFD) base = some 5 := by decide
/-- V-L8: the mean on the circle. -/
theorem test_circular_mean : circularMean 1 ⟨0x40400000⟩ ⟨0xC0400000⟩ = some F32.pi := by decide
/-- V-A5, the second miss. -/
theorem test_error_rate : smoothRate ⟨0x3C800000⟩ ⟨0x3C800000⟩ F32.one = ⟨0x3CFE0000⟩ := by decide

/-! Refusals (93_implementation_defined.md). -/

/-- V-H13. -/
theorem test_refused_unconfigured :
    refusalOf (exec (.setCircularCount 0 false) State.reset) = some .invalidConfig := by decide
/-- Log 8: the twelve registers without a reset value in the spec are read after reset. -/
theorem test_read_unwritten :
    ([0x00, 0x01, 0x02, 0x0D, 0x0E, 0x0F, 0x10, 0x11, 0x18, 0x19, 0x1A, 0x1B] : List (BitVec 8)).all fun idx =>
      seen (fun t => t.out.rdata) (.regRead idx) State.reset = some (some 0) := by decide
/-- U7. -/
theorem test_refused_read_only : refusalOf (exec (.regWrite 0x20 5) base) = some .readOnlyRegister := by decide
/-- U8. -/
theorem test_refused_agent : refusalOf (step (asked .host 1 base)) = some .wrongAgent := by decide
/-- V-A4. -/
theorem test_refused_idle_spi : refusalOf (exec (.spiDone true 0x8123) absolute) = some .nothingInFlight := by decide
/-- A placed word is the next step. -/
theorem test_fetch_word : (nextOf (step (base.withFetchWord 64 0x12))).map (fun t => t.hwcnt) = some 1 := by decide

/-! The host's procedures (95_test_vectors.md V-C1, V-C2; 46_calibration.md). -/

/-- A procedure's outcome, with what is looked at in the block after it. -/
def endedWith {α : Type} (f : State → α) (o : Host.Outcome (Bool × Scene) Fault Refusal) : Option (Bool × α) :=
  match o with
  | .next r => some (r.1, f r.2.block)
  | .fault _ => none
  | .refused _ => none

/-- V-C1: the integer part of a mean of 11.5, its fraction plus a half, and the floor of a negative mean. -/
theorem test_offset_mean :
    offsetInteger [10, 11, 12, 13, 13, 12, 11, 10] = 11 ∧ offsetFraction [10, 11, 12, 13, 13, 12, 11, 10] = 1 ∧
      offsetInteger [-2, -2, -2, -3] = -3 ∧ offsetFraction [-2, -2, -2, -3] = 5 / 4 := by decide +kernel

/-- V-C2: 2340 counts of motion are within one count of what 8192 counts per revolution and 7 pole pairs make of 4 PI, and a
mismatch with 4096. -/
theorem test_offset_mismatch :
    countCheck .absolute F32.one (expectedMotion ⟨0x41490FDB⟩ 7 8192) 2340 = none ∧
      countCheck .absolute F32.one (expectedMotion ⟨0x41490FDB⟩ 7 4096) 2340 = some .cprPolepairsMismatch := by
  decide +kernel

/-- R250, R251: the first failing line is the one that raises, whatever a later line would find: an index not found before
a Hall polarity not calibrated, no motion before counts that do not match. -/
theorem test_offset_order :
    endedWith (fun t => t.error) (offsetCalibration (fun _ => F32.zero) 8 .absolute 0 1
      ⟨{ hall 1 with cfg.flags := CfgFlags.ofWord 1 }, []⟩) = some (false, 0x40) ∧
    endedWith (fun t => t.error) (offsetCalibration (fun _ => F32.zero) 8 .absolute 0 1
      ⟨{ base with cfg.calibScanDistance := ⟨0x41490FDB⟩ }, []⟩) = some (false, 0x20) := by
  decide +kernel

/-- R243: 51 occurrences of each of the six states of mask 0b001 succeed, 50 of one of them do not. -/
theorem test_hall_polarity :
    hallPolarityEnd [51, 0, 51, 51, 51, 51, 0, 51] = succeedWith [.regWrite 0x0C 1, .regWrite 0x14 1] ∧
      hallPolarityEnd [51, 0, 51, 50, 51, 51, 0, 51] = failWith [.raiseError 0x02] := by decide

/-- R245, R246: an ambiguous transition of the spin fails, with the default table and the fault bit; an older standing bit 1
does not. -/
theorem test_hall_phase_end :
    (hallPhaseEnd (fun _ => F32.zero) (Six.all F32.zero) (Six.all 1) true) =
        failWith (.raiseError 0x02 :: writeEdges defaultHallEdges) ∧
      endedWith (fun t => (t.error, t.status.calibrateHallPhase)) (followedBy stopSampling (fun b => answer b)
        ⟨{ base with error := 0x02, status.calibrateHallPhase := true }, []⟩) = some (false, 0x02, false) := by
  decide +kernel

/-- R248: the search fails where the subscribe fails, fails disarmed where the index is not found, and succeeds where the
pulse comes before the host's first look. -/
theorem test_index_search :
    let p := { base.ports with subscribeOk := true }
    endedWith (fun t => t.status.indexArmed) (indexSearch 0 ⟨{ base with ports.subscribeOk := false }, []⟩) =
        some (false, false) ∧
      endedWith (fun t => t.status.indexArmed) (indexSearch 1 ⟨{ base with ports := p }, []⟩) = some (false, false) ∧
      endedWith (fun t => t.status.indexArmed) (indexSearch 1
        ⟨{ indexed with ports := p }, [⟨[], p, false⟩, ⟨[⟨p, .indexPulse⟩], p, false⟩]⟩) = some (true, false) := by
  decide +kernel

/-- R242, R253: an aborted search fails disarmed though the index would have come; an aborted polarity spin fails with
`CFG_FLAGS` as it was. -/
theorem test_aborted :
    let p := { base.ports with subscribeOk := true }
    endedWith (fun t => (t.status.indexArmed, t.error)) (indexSearch 2
        ⟨{ indexed with ports := p }, [⟨[], p, false⟩, ⟨[], p, true⟩]⟩) = some (false, false, 0) ∧
      endedWith (fun t => (t.cfg, t.hallPolarityCalibrated)) (hallPolarityCalibration .ignoreDuring 1
        ⟨base, [⟨[], p, false⟩, ⟨[], p, false⟩, ⟨[], p, true⟩]⟩) = some (false, base.cfg, false) := by
  decide +kernel

/-- R241: an encoder step falls between two writes of a commit. -/
theorem test_commit_interleaved :
    endedWith (fun t => (t.cfg.hallPolarity, t.hallPolarityCalibrated, t.hwcnt))
      (conclude (hallPolarityEnd [51, 0, 51, 51, 51, 51, 0, 51])
        ⟨{ base with hwcnt := 7 }, [⟨[], base.ports, false⟩, ⟨[⟨base.ports, .countUp⟩], base.ports, false⟩]⟩) =
      some (true, 1, true, 8) := by
  decide +kernel

/-! Witnesses: for each statement with hypotheses, states and operands that meet them, clause by clause. -/

theorem legal_of_gate {s : State} (h : updateGate s = none) (h' : s.mode ≠ .unsupported) : UpdateLegal s :=
  (updateLegal_iff s).mpr ⟨h, h'⟩

/-- An outcome with a next state of which `P` holds, by evaluation. -/
theorem next_with (P : State → Prop) [DecidablePred P] (x : Host.Outcome State Fault Refusal)
    (h : ((nextOf x).any fun t => decide (P t)) = true) : ∃ t, x = .next t ∧ P t := by
  cases x with
  | next t => exact ⟨t, rfl, by simpa [nextOf] using h⟩
  | fault _ => simp [nextOf] at h
  | refused _ => simp [nextOf] at h

theorem legal_base : UpdateLegal base := legal_of_gate (by decide) (by decide)
theorem legal_tickOne : UpdateLegal tickOne := legal_of_gate (by decide) (by decide)
theorem legal_hall (b : BitVec 3) : UpdateLegal (hall b) := legal_of_gate (by revert b; decide) (by revert b; decide)
theorem legal_absolute : UpdateLegal absolute := legal_of_gate (by decide) (by decide)
theorem legal_sincos : UpdateLegal sincos := legal_of_gate (by decide) (by decide)

theorem variant_zero : AbsVariant absolute.params.nAbs absolute.cfg.mode 0 := by decide

theorem unsupported_three : ¬ SupportedMode 1 3 := by
  rintro (h | h | h | ⟨v, h, -, -⟩)
  · exact absurd h (by decide)
  · exact absurd h (by decide)
  · exact absurd h (by decide)
  · have : (3 : Nat) = 256 + v := h
    omega

/-- The first absolute-SPI mode past the last variant. -/
theorem unsupported_next_variant : ¬ SupportedMode 1 0x101 := by
  rintro (h | h | h | ⟨v, h, -, hv⟩)
  · exact absurd h (by decide)
  · exact absurd h (by decide)
  · exact absurd h (by decide)
  · have : (257 : Nat) = 256 + v := h
    omega

theorem witness_EncodeDecodeAgree : decode 0x0000812300010011 = .ok (.spiDone true 0x8123) := by decide

theorem witness_ReservedWordsRefused :
    (asked .host 0 base).pending = [⟨.host, 0, base.ports⟩] ∧ ∀ o : Op, (0 : BitVec 64) &&& o.matchMask.2 ≠ o.matchMask.1 :=
  ⟨rfl, fun o => by cases o <;> decide⟩

theorem witness_StepRunsDecodedInstruction :
    (asked .enc 0x12 base).pending = [⟨.enc, 0x12, base.ports⟩] ∧ decode 0x12 = .ok .countUp ∧
      Instr.agent .countUp = .enc := ⟨rfl, by decide, rfl⟩

theorem witness_StepRunsPlacedWord : decode 0x0000000000002030 = .ok (.regRead 0x20) := by decide

theorem witness_WrongAgentRefused :
    (asked .host 1 base).pending = [⟨.host, 1, base.ports⟩] ∧ decode 1 = .ok .sample ∧ Agent.host ≠ Instr.agent .sample :=
  ⟨rfl, by decide, by decide⟩

theorem witness_UnsupportedModeFaults :
    ¬ SupportedMode { base with cfg.mode := 0x101 }.params.nAbs { base with cfg.mode := 0x101 }.cfg.mode :=
  unsupported_next_variant

theorem witness_ErrorBitsSticky :
    (∃ t, exec .countUp { base with error := 0x80 } = .next t) ∧ Instr.countUp ≠ .clearErrors ∧
      (∀ mask, Instr.countUp ≠ .raiseError mask) ∧ ({ base with error := 0x80 } : State).error.getLsbD 7 = true :=
  ⟨⟨_, rfl⟩, by decide, nofun, by decide⟩

/-- Each of the three recoveries happens: a cleared bit, a validity flag, `IS_READY` by a pulse and by a write. -/
theorem witness_RecoveryPaths :
    (∃ t, exec .clearErrors { base with error := 0x80 } = .next t ∧ t.error.getLsbD 7 = false) ∧
      (∃ t, exec .update tickOne = .next t ∧ tickOne.status.posValid = false ∧ t.status.posValid = true ∧
        t.status.velValid = true) ∧
      (∃ t, exec (.regWrite 0x12 1) base = .next t ∧ base.isReady = false ∧ t.isReady = true) ∧
      (∃ t, exec .indexPulse { indexed with cfg.flags := CfgFlags.ofWord 3 } = .next t ∧ t.isReady = true) :=
  ⟨next_with _ _ (by decide +kernel), next_with _ _ (by decide +kernel), next_with _ _ (by decide +kernel),
    next_with _ _ (by decide +kernel)⟩

theorem witness_SampleCapturesRawInputs :
    base.cfg.mode = 0 ∧ (hall 0).cfg.mode = 1 ∧ sincos.cfg.mode = 2 := by decide

theorem witness_SampleIssuesSpiRequest :
    AbsVariant absolute.params.nAbs absolute.cfg.mode 0 ∧ absolute.status.spiInflight = false ∧
      ({ absolute with status.spiInflight := true } : State).status.spiInflight = true :=
  ⟨variant_zero, rfl, rfl⟩

/-- The refusal at reset and at `cpr = 0`, the least legal `cpr` in Hall mode, and a legal one in incremental mode. -/
theorem witness_SetCircularCountResult :
    State.reset.cfg.cpr.toInt ≤ 0 ∧ ({ base with cfg.cpr := 0 } : State).cfg.cpr.toInt ≤ 0 ∧ CprLegal base ∧
      CprLegal (hall 1) := ⟨by decide, by decide, legal_base.cpr, (legal_hall 1).cpr⟩

theorem witness_CorrectedCountContinuous :
    (∃ t, exec (.setCircularCount 0 true) { base with est.countInCpr := 100 } = .next t) ∧
      (∃ t, exec .indexPulse indexed = .next t) ∧ indexed.params.indexUpdateOffset = true :=
  ⟨⟨_, rfl⟩, ⟨_, rfl⟩, rfl⟩

/-- V-P2, V-P3 (equality faults) and a bandwidth below zero. -/
theorem witness_UpdatePllGainsResult :
    ¬ GainsLegal { base with cfg.bandwidth := ⟨0xBF800000⟩ } ∧ GainsLegal { base with cfg.bandwidth := ⟨0x45800000⟩ } ∧
      (base.plat.period.mul (F32.two.mul ⟨0x45800000⟩)).ge F32.one = true ∧
      GainsLegal { base with cfg.bandwidth := ⟨0x457FFC00⟩ } ∧
      (base.plat.period.mul (F32.two.mul ⟨0x457FFC00⟩)).ge F32.one = false :=
  ⟨fun h => absurd ((gainsLegal_iff _).mp h) (by decide), (gainsLegal_iff _).mpr (by decide), by decide,
    (gainsLegal_iff _).mpr (by decide), by decide⟩

theorem witness_IndexArming :
    ({ base with ports.subscribeOk := true } : State).ports.subscribeOk = true ∧ base.ports.subscribeOk = false := by
  decide

/-- Each clause: the refusals, the ignored pulse, and the pulse with and without the linear offset. -/
theorem witness_IndexPulseEffect :
    ({ base with cfg.cpr := 0 } : State).cfg.cpr.toInt ≤ 0 ∧
      (let s : State := { indexed with cfg.flags := CfgFlags.ofWord 0x11, cfg.indexOffset := ⟨0x7F800000⟩ }
       CprLegal s ∧ s.status.indexArmed = true ∧ s.cfg.flags.useIndex = true ∧ s.cfg.flags.useIndexOffset = true ∧
         (s.cfg.indexOffset.mul (F32.ofInt s.cfg.cpr.toInt)).truncInt = none) ∧
      (CprLegal base ∧ base.status.indexArmed = false) ∧
      (let s : State := { indexed with cfg.flags := CfgFlags.ofWord 0x11, cfg.indexOffset := ⟨0x3E800000⟩ }
       CprLegal s ∧ s.status.indexArmed = true ∧ s.cfg.flags.useIndex = true ∧
         (s.cfg.flags.useIndexOffset = true →
           (s.cfg.indexOffset.mul (F32.ofInt s.cfg.cpr.toInt)).truncInt = some 2048)) ∧
      (CprLegal indexed ∧ indexed.status.indexArmed = true ∧
        indexed.cfg.flags.useIndex = true ∧ indexed.cfg.flags.useIndexOffset = false) :=
  ⟨by decide, ⟨(cprOk_iff _).mp (by decide), rfl, rfl, rfl, by decide⟩, ⟨legal_base.cpr, rfl⟩,
    ⟨(cprOk_iff _).mp (by decide), rfl, rfl, fun _ => by decide⟩,
    ⟨(cprOk_iff _).mp (by decide), rfl, rfl, rfl⟩⟩

/-- The last reserved index before the runtime registers and the first after the table; a register that is no `f32`;
one that is; one that holds a NaN. -/
theorem witness_RegReadResult :
    Reg.ofIndex 0x1F = none ∧ Reg.ofIndex 0x41 = none ∧
      Reg.ofIndex 0x20 = some .shadowCount ∧ Reg.type .shadowCount ≠ .f32 ∧
      Reg.type .velEstimateCounts = .f32 ∧ (F32.mk (regContent .velEstimateCounts base)).isNaN = false ∧
      (F32.mk (regContent .velEstimateCounts { base with est.velEstimate := F32.nan })).isNaN = true := by decide

/-- A reserved index, the first and the last `ro` register, the directions next to the legal ones, and a register of each
type the host may write. -/
theorem witness_RegWriteResult :
    Reg.ofIndex 0x15 = none ∧ Reg.hostClass .shadowCount = .ro ∧ Reg.hostClass .lastHallCnt = .ro ∧
      ((2 : Word).toInt ≠ -1 ∧ (2 : Word).toInt ≠ 0 ∧ (2 : Word).toInt ≠ 1) ∧
      ((-2 : Word).toInt ≠ -1 ∧ (-2 : Word).toInt ≠ 0 ∧ (-2 : Word).toInt ≠ 1) ∧
      (Reg.hostClass .cfgDirection ≠ .ro ∧ (-1 : Word).toInt = -1) ∧
      (Reg.hostClass .cfgCpr ≠ .ro ∧ Reg.cfgCpr ≠ .cfgDirection ∧ Reg.type .cfgCpr = .s32) ∧
      (Reg.hostClass .cfgBandwidth ≠ .ro ∧ Reg.type .cfgBandwidth = .f32) ∧
      (Reg.hostClass .cfgHallPolarity ≠ .ro ∧ Reg.type .cfgHallPolarity = .u 3) ∧
      (Reg.hostClass .cfgFlags ≠ .ro ∧ Reg.type .cfgFlags = .flags) := by decide

theorem witness_RegistersChangeOnlyByTheirWriters :
    (∃ t, exec .update tickOne = .next t ∧ t.est.shadowCount = 4) ∧ mayWrite .pllKp .update = false ∧
      mayWrite .hwcnt .update = false := ⟨next_with _ _ (by decide +kernel), by decide, by decide⟩

theorem witness_SpiDoneResult :
    absolute.status.spiInflight = false ∧
      (let s : State := { absolute with status.spiInflight := true }
       s.status.spiInflight = true ∧ AbsVariant s.params.nAbs s.cfg.mode 0) ∧
      (let s : State := { base with status.spiInflight := true }
       s.status.spiInflight = true ∧ ¬ ∃ v, AbsVariant s.params.nAbs s.cfg.mode v) :=
  ⟨rfl, ⟨rfl, variant_zero⟩, ⟨rfl, fun ⟨_, h⟩ => h.ne.1 rfl⟩⟩

/-- A supported mode with no period; an odd `cpr` in incremental mode. -/
theorem witness_InvalidConfigurationRefused :
    (let s : State := { base with plat.period := ⟨0⟩ }
     SupportedMode s.params.nAbs s.cfg.mode ∧ ¬ UpdateLegal s) ∧ ¬ CprLegal { base with cfg.cpr := 8191 } :=
  ⟨⟨.inl rfl, fun h => absurd ((updateLegal_iff _).mp h).1 (by decide)⟩,
    fun h => absurd ((cprOk_iff _).mpr h) (by decide)⟩

/-- The first tick of P1: the modelled counts 0, the wrapped error 4.0, the fraction 2^-13 * 0.9765625, the phase of the
vector, each for the expression of the statement. -/
theorem witness_UpdateObserverResult :
    UpdateLegal tickOne ∧ stepOne tickOne = .moved 4 none tickOne ∧ tickOne.isReady = true ∧
      (let period := tickOne.plat.period
       let cprf := F32.ofInt tickOne.cfg.cpr.toInt
       let count : Word := BitVec.ofInt 32 ((tickOne.est.countInCpr.toInt + 4) % tickOne.cfg.cpr.toInt)
       let tv := period.mul tickOne.est.velEstimate
       let cpr1 := tickOne.est.posCpr.add tv
       let ec : F32 := ⟨0x40800000⟩
       let cpr2 := (cpr1.add ((period.mul tickOne.est.kp).mul ec)).fmodPos cprf
       let erpc := ((F32.ofInt tickOne.plat.polePairs.toInt).mul F32.twoPi).div cprf
       let corr := F32.ofInt (count - tickOne.cfg.phaseOffset).toInt
       let ph := (erpc.mul ((corr.add F32.zero).sub tickOne.cfg.phaseOffsetFloat)).mul
         (F32.ofInt tickOne.cfg.direction.toInt)
       encoderModel tickOne (tickOne.est.posEstimate.add tv) = some 0 ∧ encoderModel tickOne cpr1 = some 0 ∧
         (F32.ofInt (count.toInt - 0)).wrapPm cprf = some ec ∧
         ((cpr2.sub tickOne.est.posCpr).div cprf).wrapPm F32.one = some ⟨0x38FA0000⟩ ∧
         ph.wrapPm F32.twoPi = some ⟨0x3CAFEDE0⟩) :=
  ⟨legal_tickOne, rfl, rfl, by dsimp only; decide +kernel⟩

/-- A position of 2^31, whose floor is one past the range, and the number below it; a ready phase that is not finite. -/
theorem witness_UpdateRefusedWithoutValue :
    (F32.floorInt ⟨0x4F000000⟩ = none ∧ F32.floorInt ⟨0x4EFFFFFF⟩ = some 2147483520) ∧
      (let s : State := { base with est.posEstimate := ⟨0x4F000000⟩ }
       UpdateLegal s ∧ stepOne s = .moved 0 none s ∧
         encoderModel s (s.est.posEstimate.add (s.plat.period.mul s.est.velEstimate)) = none) ∧
      (let s : State := { tickOne with cfg.phaseOffsetFloat := ⟨0x7F800000⟩ }
       UpdateLegal s ∧ stepOne s = .moved 4 none s ∧
         ∃ u, estimate 4 (applyDelta 4 none s) = .ok u ∧ u.isReady = true ∧ (rawPhase u).isFinite = false) :=
  ⟨by decide, ⟨legal_of_gate (by decide) (by decide), rfl, by decide⟩,
    legal_of_gate (by decide) (by decide), rfl, ⟨_, rfl, rfl, by decide +kernel⟩⟩

/-- `POS_CPR_COUNTS` lies in `[0, cpr)`, whether or not the host has written `CFG_CPR`. -/
abbrev InRevolution (s : State) : Prop :=
  F32.zero.le s.est.posCpr = true ∧ s.est.posCpr.lt (F32.ofInt s.cfg.cpr.toInt) = true

/-- The bounds at their limits in incremental mode, and each other mode. -/
theorem witness_UpdateCompletesOnBoundedData :
    (let s : State :=
      { tickOne with
        cfg.cpr := 0x01000000, plat.period := F32.one, est.kp := ⟨0x3F7FFFFF⟩, est.posEstimate := twoPow30,
        est.velEstimate := twoPow29, cfg.phaseOffsetFloat := twoPow30 }
     UpdateLegal s ∧ s.cfg.cpr.toInt ≤ 16777216 ∧ s.plat.period.le F32.one = true ∧ F32.zero.le s.est.kp = true ∧
       (s.plat.period.mul s.est.kp).lt F32.one = true ∧ InRevolution s ∧ Bounded s.est.posEstimate twoPow30 ∧
       Bounded s.est.velEstimate twoPow29 ∧ Bounded s.cfg.phaseOffsetFloat twoPow30 ∧ s.cfg.mode = 0) ∧
      (UpdateLegal (hall 1) ∧ InRevolution (hall 1) ∧ (hall 1).status.calibrateHallPhase = false ∧
        (hall 1).ports.hallSnapshot ^^^ (hall 1).cfg.hallPolarity ≠ 0 ∧
        (hall 1).ports.hallSnapshot ^^^ (hall 1).cfg.hallPolarity ≠ 7) ∧
      (let s : State := { absolute with status.absSpiPosUpdated := true }
       UpdateLegal s ∧ InRevolution s ∧ s.status.absSpiPosUpdated = true) ∧
      (UpdateLegal sincos ∧ InRevolution sincos) :=
  ⟨⟨legal_of_gate (by decide) (by decide), by decide, by decide, by decide, by decide, by decide, by decide, by decide,
    by decide, rfl⟩, ⟨legal_hall 1, by decide, rfl, by decide, by decide⟩,
    ⟨legal_of_gate (by decide) (by decide), by decide, rfl⟩, legal_sincos, by decide⟩

theorem witness_UpdateIncrementalCounts : ∃ t, exec .update tickOne = .next t ∧ tickOne.cfg.mode = 0 :=
  next_with _ _ (by decide +kernel)

theorem witness_UpdateHallCounts :
    ∃ t, exec .update (hall 5) = .next t ∧ (hall 5).cfg.mode = 1 ∧
      hallCount ((hall 5).ports.hallSnapshot ^^^ (hall 5).cfg.hallPolarity) = some 5 ∧ t.out.result = .ok :=
  next_with _ _ (by decide +kernel)

/-- V-L5: no previous count, a step up into 1, a step down out of 1 (95_test_vectors.md 2.6), and no edge. -/
theorem witness_UpdateHallEdgeSampling :
    (∃ t, exec .update (hallCalibrating 1 0xFFFFFFFF 0x3F000000) = .next t ∧ t.out.result = .ok ∧
      t.hallCal.lastHallCnt = 0 ∧ t.hallCal.seen = Six.all 0) ∧
      (∃ t, exec .update (hallCalibrating 3 0 0x3F800000) = .next t ∧ t.out.result = .ok ∧
        hallCount (3 ^^^ 0) = some 1 ∧ t.hallCal.acc.e1 = F32.one ∧ t.hallCal.seen.e1 = 1) ∧
      (∃ t, exec .update (hallCalibrating 1 1 0x40000000) = .next t ∧ t.out.result = .ok ∧
        hallCount (1 ^^^ 0) = some 0 ∧ t.hallCal.seen.e1 = 1 ∧ t.hallCal.lastHallCnt = 0) ∧
      (∃ t, exec .update (hallCalibrating 3 1 0x40000000) = .next t ∧ t.out.result = .ok ∧
        t.hallCal.seen = Six.all 0) :=
  ⟨next_with _ _ (by decide +kernel), next_with _ _ (by decide +kernel), next_with _ _ (by decide +kernel), next_with _ _ (by decide +kernel)⟩

theorem witness_UpdateIllegalHallState :
    (UpdateLegal (hall 7) ∧ (hall 7).cfg.mode = 1 ∧ (hall 7).ports.hallSnapshot ^^^ (hall 7).cfg.hallPolarity = 7 ∧
      (hall 7).cfg.flags.ignoreIllegalHallState = false) ∧
      (let s : State := { hall 0 with cfg.flags := CfgFlags.ofWord 8 }
       UpdateLegal s ∧ s.cfg.mode = 1 ∧ s.ports.hallSnapshot ^^^ s.cfg.hallPolarity = 0 ∧
         s.cfg.flags.ignoreIllegalHallState = true ∧ 0 ≤ s.est.countInCpr.toInt ∧
         s.est.countInCpr.toInt < s.cfg.cpr.toInt ∧ ∃ t, exec .update s = .next t ∧ t.out.result = .ok) :=
  ⟨⟨legal_hall 7, rfl, by decide, rfl⟩, legal_of_gate (by decide) (by decide), rfl, by decide, rfl, by decide,
    by decide, next_with _ _ (by decide +kernel)⟩

/-- Differences of 2 and of 4. -/
theorem witness_UpdateAmbiguousTransition :
    (UpdateLegal (hallCalibrating 2 0 0) ∧ hallCount ((2 : BitVec 3) ^^^ 0) = some 2 ∧
      2 ≤ ((2 : Int) - (0 : Word).toInt) % 6 ∧ ((2 : Int) - (0 : Word).toInt) % 6 ≤ 4) ∧
      (UpdateLegal (hallCalibrating 1 2 0) ∧ hallCount ((1 : BitVec 3) ^^^ 0) = some 0 ∧ 0 ≤ (2 : Word).toInt ∧
        2 ≤ ((0 : Int) - (2 : Word).toInt) % 6 ∧ ((0 : Int) - (2 : Word).toInt) % 6 ≤ 4) :=
  ⟨⟨legal_of_gate (by decide) (by decide), by decide⟩, legal_of_gate (by decide) (by decide), by decide⟩

theorem sincos_step : stepOne sincos = .moved 0 none sincos := by
  have h : sincosCount sincos.raw.sincosS sincos.raw.sincosC sincos.cfg.cpr.toInt = 0 := by
    unfold sincosCount modPos
    rw [show sincos.cfg.cpr.toInt = 1 from rfl, Int.emod_one]
  have hm : sincos.mode = .sincos := by decide
  unfold stepOne
  rw [hm]
  simp only [sincosDelta, deltaTowards, h]
  rfl

theorem witness_UpdateSincosCounts : ∃ t, exec .update sincos = .next t ∧ sincos.cfg.mode = 2 := by
  have hg : updateGate sincos = none := by decide
  simp only [exec, execUpdate, hg, sincos_step]
  exact ⟨_, rfl, rfl⟩

/-- V-A5: the fourth miss. -/
theorem witness_UpdateAbsComFail :
    let s : State := { absolute with spi.errorRate := ⟨0x3D3D0400⟩ }
    UpdateLegal s ∧ AbsVariant s.params.nAbs s.cfg.mode 0 ∧ s.status.absSpiPosUpdated = false ∧
      (s.spi.errorRate.add (s.plat.spiErrAlpha.mul (F32.one.sub s.spi.errorRate))).gt ⟨0x3D4CCCCD⟩ = true :=
  ⟨legal_of_gate (by decide) (by decide), variant_zero, rfl, by decide⟩

/-- A hit and a miss that go on. -/
theorem witness_UpdateAbsCounts :
    (∃ t, exec .update { absolute with status.absSpiPosUpdated := true, spi.posAbs := 100 } = .next t ∧
      t.out.result = .ok) ∧
      (∃ t, exec .update absolute = .next t ∧ t.out.result = .ok) ∧
      AbsVariant absolute.params.nAbs absolute.cfg.mode 0 :=
  ⟨next_with _ _ (by decide +kernel), next_with _ _ (by decide +kernel), variant_zero⟩

/-- Each of the four exits. -/
theorem witness_UpdateEarlyExits :
    (∃ t, exec .update { base with cfg.mode := 3 } = .next t ∧ t.out.result = .fail) ∧
      (∃ t, exec .update (hall 7) = .next t ∧ t.out.result = .fail) ∧
      (∃ t, exec .update (hallCalibrating 2 0 0) = .next t ∧ t.out.result = .fail) ∧
      (∃ t, exec .update { absolute with spi.errorRate := ⟨0x3D3D0400⟩ } = .next t ∧ t.out.result = .fail) :=
  ⟨next_with _ _ (by decide +kernel), next_with _ _ (by decide +kernel), next_with _ _ (by decide +kernel), next_with _ _ (by decide +kernel)⟩

theorem witness_PhaseMovesOnlyWhenReady :
    ∃ t, exec .update tickOne = .next t ∧ t.est.phase ≠ tickOne.est.phase ∧ t.est.phaseVel ≠ tickOne.est.phaseVel :=
  next_with _ _ (by decide +kernel)

theorem witness_DirectionZeroSilencesPhase :
    ∃ t, exec .update { tickOne with cfg.direction := 0 } = .next t ∧ t.out.result = .ok ∧
      ({ tickOne with cfg.direction := 0 } : State).isReady = true :=
  next_with _ _ (by decide +kernel)

theorem witness_HallModelNearFloor : HallModelKind.other = .other ∧ defaultHallEdges = State.reset.cfg.hallEdge := by decide

/-- A tick that moves everything, from a state that meets the invariants. -/
theorem witness_steps_from_invariants :
    let s := asked .loop 2 tickOne
    InterpolationInUnit s ∧ PhasesInRange s ∧ FaultInvalidates s ∧ DirectionLegal s ∧ CountInRange s ∧ PosCprInRange s ∧
      s.params.circRebasePll = false ∧ ∃ t, step s = .next t ∧ t.est.phase ≠ s.est.phase :=
  ⟨by decide, by decide, by decide, by decide, by decide, by decide, rfl,
    next_with _ _ (by decide +kernel)⟩

/-- A write of `CFG_CPR` just above the count and the position, which the two range invariants accept. -/
theorem witness_steps_write_cpr :
    let s := asked .host 0x0000000500000131 { base with est.countInCpr := 4, est.posCpr := ⟨0x40900000⟩ }
    CountInRange s ∧ PosCprInRange s ∧ NextWritesCpr s 5 ∧ s.est.countInCpr.toInt < (5 : Word).toInt ∧
      s.est.posCpr.lt (F32.ofInt (5 : Word).toInt) = true ∧ ∃ t, step s = .next t :=
  ⟨by decide, by decide, ⟨_, _, rfl, by decide⟩, by decide, by decide, _, rfl⟩

theorem witness_BuffersAndParametersFixed :
    ∃ t, exec (.spiDone false 0x8125) { absolute with status.spiInflight := true } = .next t ∧ t.spi.rx ≠ absolute.spi.rx :=
  ⟨_, rfl, by decide⟩

theorem witness_ResetValues :
    holdsValue .lastHallCnt State.reset = true ∧ Reg.lastHallCnt ≠ .hwcnt ∧ holdsValue (.cfgHallEdge 5) State.reset = true := by
  decide

/-- An operation that is neither of the two that look at the mode's bit. -/
theorem witness_WrittenBitsUnseen : Instr.update.op ≠ .setCircularCount ∧ Instr.update.op ≠ .indexPulse := by decide

/-- Two readings that differ in a port which a SAMPLE in incremental mode does not read. -/
theorem witness_PortsReadOnlyWhereNamed :
    PortsAgree .sample base Ports.idle { Ports.idle with spiAccept := true } ∧
      Ports.idle ≠ { Ports.idle with spiAccept := true } :=
  ⟨⟨fun h => absurd h (by decide), fun ⟨_, h⟩ => absurd rfl h.ne.1⟩, by decide⟩

/-- A tie: 2^24 + 1 in units rounds to 2^24, the even pattern. -/
theorem witness_RoundingIsNearestEven :
    (0 : Nat) < 1 ∧ 0x0C000001 < F32.infMag ∧ F32.roundMag 16777217 1 < F32.infMag := by decide

theorem witness_WrapPmInHalfOpenRange :
    F32.one.le F32.one = true ∧ F32.wrapPm ⟨0xBF000000⟩ F32.one = some ⟨0x3F000000⟩ := by decide

end Sys2Proof.Tests
end

section
/-! PROOFS. Rounding to the nearest binary32 number, ties to even (00_scope.md R13): a quotient lies between two adjacent
patterns, and `roundMag` picks the nearer of the two, or the even one half-way. -/

namespace Sys2Proof

/-- Rounding to an integer goes to the nearer of the two neighbours `n / d` and `n / d + 1`, half-way to the even one. -/
theorem roundDiv_cases (n d : Nat) :
    (roundDiv n d = n / d ∧ 2 * n < n / d * d + (n / d + 1) * d) ∨
      (roundDiv n d = n / d + 1 ∧ n / d * d + (n / d + 1) * d < 2 * n) ∨
      (roundDiv n d % 2 = 0 ∧ (roundDiv n d = n / d ∨ roundDiv n d = n / d + 1) ∧
        2 * n = n / d * d + (n / d + 1) * d) := by
  have hn : n / d * d + n % d = n := Nat.div_add_mod' n d
  have hs : (n / d + 1) * d = n / d * d + d := Nat.succ_mul _ _
  unfold roundDiv
  split <;> omega

/-- A significand at a quantum is a pattern's value, also where it is the `2 ^ 24` that carries into the exponent field. -/
theorem F32.unitsOfMag_quantum (e a : Nat) (hlow : e = 0 ∨ 2 ^ 23 ≤ a) (hhigh : a ≤ 2 ^ 24) :
    F32.unitsOfMag (e * 2 ^ 23 + a) = a * 2 ^ e := by
  by_cases hsub : a < 2 ^ 23
  · obtain rfl : e = 0 := by omega
    rw [Nat.zero_mul, Nat.zero_add, F32.unitsOfMag_small a hsub, pow_zero, mul_one]
  · rcases Nat.lt_or_eq_of_le hhigh with hlt | rfl
    · exact F32.unitsOfMag_normal e a (by omega) hlt
    · rw [show e * 2 ^ 23 + 2 ^ 24 = (e + 1) * 2 ^ 23 + 2 ^ 23 by ring,
        F32.unitsOfMag_normal (e + 1) (2 ^ 23) (by omega) (by omega)]
      ring

/-- At the quantum that `roundMag` chooses, the integer part of a quotient is a significand of at most 24 bits. -/
theorem F32.significand_lt (n d : Nat) : n / (d * 2 ^ (Nat.log2 (n / d) - 23)) < 2 ^ 24 := by
  rw [← Nat.div_div_eq_div_mul, Nat.div_lt_iff_lt_mul (by positivity), ← pow_add]
  calc n / d < 2 ^ (Nat.log2 (n / d) + 1) := Nat.lt_log2_self
    _ ≤ 2 ^ (24 + (Nat.log2 (n / d) - 23)) := Nat.pow_le_pow_right (by omega) (by omega)

/-- That significand has its leading bit, but at the quantum of the subnormal numbers. -/
theorem F32.le_significand (n d : Nat) (hd : 0 < d) :
    Nat.log2 (n / d) - 23 = 0 ∨ 2 ^ 23 ≤ n / (d * 2 ^ (Nat.log2 (n / d) - 23)) := by
  by_cases hl : 23 ≤ Nat.log2 (n / d)
  · exact .inr ((Nat.le_div_iff_mul_le (by positivity)).mpr (F32.quantum_lower n d hl))
  · exact .inl (by omega)

/-- Every quotient `n / d` lies between two adjacent patterns `p` and `p + 1`; its rounding is the nearer of the two,
half-way the even one. -/
theorem F32.roundPattern_cases (n d : Nat) (hd : 0 < d) :
    ∃ p, F32.unitsOfMag p * d ≤ n ∧ n < F32.unitsOfMag (p + 1) * d ∧
      ((F32.roundPattern n d = p ∧ 2 * n < F32.unitsOfMag p * d + F32.unitsOfMag (p + 1) * d) ∨
        (F32.roundPattern n d = p + 1 ∧ F32.unitsOfMag p * d + F32.unitsOfMag (p + 1) * d < 2 * n) ∨
        (F32.roundPattern n d % 2 = 0 ∧ (F32.roundPattern n d = p ∨ F32.roundPattern n d = p + 1) ∧
          2 * n = F32.unitsOfMag p * d + F32.unitsOfMag (p + 1) * d)) := by
  have hlow := F32.le_significand n d hd
  have hhigh := F32.significand_lt n d
  unfold F32.roundPattern
  generalize Nat.log2 (n / d) - 23 = e at *
  have hq : 0 < d * 2 ^ e := by positivity
  have hcases := roundDiv_cases n (d * 2 ^ e)
  have hfloor : n / (d * 2 ^ e) * (d * 2 ^ e) ≤ n := Nat.div_mul_le_self _ _
  have hceil : n < (n / (d * 2 ^ e) + 1) * (d * 2 ^ e) := (Nat.div_lt_iff_lt_mul hq).mp (Nat.lt_succ_self _)
  generalize n / (d * 2 ^ e) = a at *
  have hp : F32.unitsOfMag (e * 2 ^ 23 + a) * d = a * (d * 2 ^ e) := by
    rw [F32.unitsOfMag_quantum e a hlow hhigh.le]; ring
  have hp' : F32.unitsOfMag (e * 2 ^ 23 + a + 1) * d = (a + 1) * (d * 2 ^ e) := by
    rw [add_assoc, F32.unitsOfMag_quantum e (a + 1) (by omega) hhigh]; ring
  refine ⟨e * 2 ^ 23 + a, ?_⟩
  rw [hp, hp']
  omega

/-- No pattern's value lies strictly between those of two adjacent patterns. -/
theorem F32.unitsOfMag_outside (m p d : Nat) (hd : 0 < d) :
    F32.unitsOfMag m * d < F32.unitsOfMag p * d ∨ m = p ∨ m = p + 1 ∨
      F32.unitsOfMag (p + 1) * d < F32.unitsOfMag m * d := by
  have hmono : StrictMono fun a => F32.unitsOfMag a * d := F32.unitsOfMag_strictMono.mul_const hd
  rcases Nat.lt_trichotomy m p with h | h | h
  · exact .inl (hmono h)
  · exact .inr (.inl h)
  · rcases Nat.lt_or_eq_of_le (Nat.succ_le_of_lt h) with h | h
    · exact .inr (.inr (.inr (hmono h)))
    · exact .inr (.inr (.inl h.symm))

/-- Settles O59: the quotient lies between two adjacent patterns, `roundMag` gives the nearer of them (the even one
half-way), and every other pattern lies outside the two. -/
theorem roundingIsNearestEven : Obligations.RoundingIsNearestEven := by
  intro k d m hd _ hfin
  have hround : F32.roundMag k d = F32.roundPattern k d := by
    rw [F32.roundMag_eq] at hfin ⊢
    omega
  obtain ⟨p, hle, hlt, hcases⟩ := F32.roundPattern_cases k d hd
  rw [hround]
  rw [← Nat.cast_mul, ← Nat.cast_mul]
  have hout := F32.unitsOfMag_outside m p d hd
  rcases hcases with ⟨hr, hnear⟩ | ⟨hr, hnear⟩ | ⟨heven, hr | hr, htie⟩
  · rcases hout with hm | rfl | rfl | hm <;> rw [hr] <;> omega
  · rcases hout with hm | rfl | rfl | hm <;> rw [hr] <;> omega
  · rcases hout with hm | rfl | rfl | hm <;> rw [hr] at heven ⊢ <;> omega
  · rcases hout with hm | rfl | rfl | hm <;> rw [hr] at heven ⊢ <;> omega

end Sys2Proof
end

section
/-! PROOFS. The interval of `wrap_pm` for every modulus of at least one (00_scope.md R16): halving such a modulus is exact. -/

namespace Sys2Proof

@[simp] theorem F32.negate_isNeg (x : F32) : x.negate.isNeg = !x.isNeg := by
  have hflip : (0x80000000 : BitVec 32).msb = true := by decide
  rw [F32.isNeg, F32.negate, BitVec.msb_xor, hflip, Bool.xor_true, F32.isNeg]

@[simp] theorem F32.negate_mag (x : F32) : x.negate.mag = x.mag := by
  simp [F32.negate, F32.mag, BitVec.setWidth_xor]

@[simp] theorem F32.negate_isNaN (x : F32) : x.negate.isNaN = x.isNaN := by rw [F32.isNaN, F32.negate_mag, F32.isNaN]

@[simp] theorem F32.negate_units (x : F32) : x.negate.units = -x.units := by
  rw [F32.units, F32.units, F32.negate_isNeg, F32.negate_mag]
  cases x.isNeg <;> simp

/-- Taking one from the exponent field halves a value, where the result is still a normal number. -/
theorem F32.unitsOfMag_half (m : Nat) (h : 2 ^ 24 ≤ m) :
    F32.unitsOfMag m = 2 * F32.unitsOfMag (m - 2 ^ 23) := by
  obtain hsub | ⟨e, a, h1, h2, rfl⟩ := F32.mag_cases m
  · omega
  · obtain ⟨e, rfl⟩ : ∃ k, e = k + 1 := ⟨e - 1, by omega⟩
    rw [show (e + 1) * 2 ^ 23 + a - 2 ^ 23 = e * 2 ^ 23 + a by omega, F32.unitsOfMag_normal _ a h1 h2,
      F32.unitsOfMag_normal _ a h1 h2]
    ring

/-- Division of a finite number by two takes one from the exponent field, where the result is still a normal number. -/
theorem F32.div_two_eq (y : F32) (hfin : y.isFinite = true) (h : 2 ^ 24 ≤ y.mag) :
    y.div F32.two = F32.ofMag y.isNeg (y.mag - 2 ^ 23) := by
  have hmag : y.mag < F32.infMag := of_decide_eq_true hfin
  have hinf : y.isInf = false := decide_eq_false hmag.ne
  have habs : y.units.natAbs = F32.unitsOfMag y.mag := by
    rw [F32.units]; split <;> simp
  have htwo : F32.two.units.natAbs = 2 * F32.one149 := by decide
  have hround : F32.roundMag (y.units.natAbs * F32.one149) F32.two.units.natAbs = y.mag - 2 ^ 23 := by
    rw [habs, htwo, F32.unitsOfMag_half y.mag h, mul_comm 2, mul_assoc]
    exact F32.roundMag_exact _ _ (by decide) (by omega)
  have hsign : (y.isNeg != F32.two.isNeg) = y.isNeg := by
    rw [show F32.two.isNeg = false by decide, Bool.bne_false]
  rw [F32.div, F32.isFinite_not_isNaN y hfin, hinf, hround, hsign, show F32.two.isNaN = false by decide,
    show F32.two.isInf = false by decide, if_neg (by decide), if_neg (by decide), if_neg (by decide), if_neg (by decide)]

theorem F32.div_two_isFinite (y : F32) (hfin : y.isFinite = true) (h : 2 ^ 24 ≤ y.mag) :
    (y.div F32.two).isFinite = true := by
  have hmag : y.mag < F32.infMag := of_decide_eq_true hfin
  have hlt := y.mag_lt
  rw [F32.div_two_eq y hfin h, F32.isFinite, F32.ofMag_mag _ _ (by omega)]
  exact decide_eq_true (by omega)

/-- That quotient is exact. -/
theorem F32.div_two_units (y : F32) (hfin : y.isFinite = true) (h : 2 ^ 24 ≤ y.mag) :
    y.units = 2 * (y.div F32.two).units := by
  have hlt := y.mag_lt
  rw [F32.div_two_eq y hfin h, F32.ofMag_units _ _ (by omega), F32.units, F32.unitsOfMag_half y.mag h]
  split <;> omega

theorem F32.mag_ge_of_one_le (y : F32) (h : F32.one.le y = true) : F32.one.mag ≤ y.mag := by
  obtain ⟨-, -, hle⟩ := (F32.le_iff _ _).mp h
  have hone : F32.one.units = F32.unitsOfMag F32.one.mag := by decide
  rw [hone, F32.units] at hle
  rw [← F32.unitsOfMag_le_iff]
  split at hle <;> omega

/-- What `wrap_pm` answers: half the modulus where the clamp acts, else the rounded remainder above `-y/2`. -/
theorem F32.wrapPm_cases (x y r : F32) (h : x.wrapPm y = some r) :
    y.isFinite = true ∧ F32.zero.lt y = true ∧
      (r = y.div F32.two ∨
        r = F32.ofUnits (centered x.units y.units) 1 ∧ ¬ r.le (y.div F32.two).negate = true) := by
  unfold F32.wrapPm at h
  split at h
  · rename_i hc
    simp only [Bool.and_eq_true] at hc
    obtain ⟨⟨-, hy⟩, hpos⟩ := hc
    refine ⟨hy, hpos, ?_⟩
    split at h
    · exact .inl (Option.some.inj h).symm
    · rename_i hlow
      obtain rfl := Option.some.inj h
      exact .inr ⟨rfl, hlow⟩
  · exact absurd h (by simp)

/-- Settles O60: half of such a modulus is exact, so it bounds the exact remainder and, rounding being monotone, the
rounded one; the clamp keeps the result off `-y/2`. -/
theorem wrapPmInHalfOpenRange : Obligations.WrapPmInHalfOpenRange := by
  intro x y r hone h
  obtain ⟨hfin, hpos, hr⟩ := F32.wrapPm_cases x y r h
  have hnorm : 2 ^ 24 ≤ y.mag := le_trans (by decide) (F32.mag_ge_of_one_le y hone)
  have hhalf := F32.div_two_units y hfin hnorm
  have hhfin := F32.div_two_isFinite y hfin hnorm
  have hnan := F32.isFinite_not_isNaN _ hhfin
  obtain ⟨-, -, hy⟩ := (F32.lt_iff _ _).mp hpos
  rw [F32.zero_units] at hy
  rw [F32.lt_iff, F32.le_iff, F32.negate_isNaN, F32.negate_units]
  rcases hr with rfl | ⟨rfl, hlow⟩
  · exact ⟨⟨hnan, hnan, by omega⟩, hnan, hnan, le_rfl⟩
  · obtain ⟨-, hb⟩ := centered_bounds x.units y.units hy
    have hrnan := F32.ofUnits_isNaN (centered x.units y.units) 1
    have hup : (F32.ofUnits (centered x.units y.units) 1).units ≤ (y.div F32.two).units := by
      rw [← F32.ofUnits_units_exact _ hhfin]
      exact F32.ofUnits_mono _ _ (by omega)
    rw [F32.le_iff, F32.negate_isNaN, F32.negate_units] at hlow
    exact ⟨⟨hnan, hrnan, not_le.mp fun hc => hlow ⟨hrnan, hnan, hc⟩⟩, hrnan, hnan, hup⟩

end Sys2Proof
end

section
/-! PROOFS. One step is the operation of the next request (00_scope.md R8). -/

namespace Sys2Proof.Machine

/-- A request that decodes and comes from the operation's agent is that operation (60_exceptions.md R276). -/
theorem accept_eq_ok (r : Request) (i : Instr) (hdec : decode r.word = .ok i) (hag : i.agent = r.agent) :
    accept r = .ok i := by
  rw [accept, hdec]
  exact if_pos hag

/-- A step with an accepted request first is that operation, on the state it starts in. -/
theorem step_of_accept (s : State) (r : Request) (rest : List Request) (i : Instr) (hp : s.pending = r :: rest)
    (ha : accept r = .ok i) : step s = exec i (enter i r.ports { s with pending := rest }) := by
  simp only [step, hp, ha]

/-- A word that is presented by `requestOf` is accepted whenever it decodes. -/
theorem accept_requestOf (w : BitVec 64) (s : State) (i : Instr) (hdec : decode w = .ok i) :
    accept (requestOf w s) = .ok i :=
  accept_eq_ok _ i hdec (by simp only [requestOf, agentOf, hdec])

theorem tableWord_toNat (w : BitVec 64) : tableWord 64 w.toNat = w := by
  rw [tableWord, Nat.mod_eq_of_lt w.isLt, BitVec.ofNat_toNat, BitVec.setWidth_eq]

theorem withFetchWord_pending (s : State) (w : BitVec 64) :
    (s.withFetchWord 64 w.toNat).pending = requestOf w s :: s.pending := by
  rw [State.withFetchWord, tableWord_toNat]

/-- Settles O6: the request is accepted, and the state that `enter` gives is the one stated. -/
theorem stepRunsDecodedInstruction : Obligations.StepRunsDecodedInstruction :=
  fun s r rest i hp hdec hag => step_of_accept s r rest i hp (accept_eq_ok r i hdec hag)

/-- Settles O7: the placed word is the first request and is accepted; taking it leaves the requests and ports of `s`. -/
theorem stepRunsPlacedWord : Obligations.StepRunsPlacedWord :=
  fun s w i hdec => step_of_accept _ _ s.pending i (withFetchWord_pending s w) (accept_requestOf w s i hdec)

end Sys2Proof.Machine
end

section
/-! PROOFS. What each operation can change, said once: the next state's shape per operation, then the column "Written by" of
the register table (10_state.md R22). -/

namespace Sys2Proof.Machine

/-! The shape of each operation's next state. -/

/-- SAMPLE writes the raw samples, and through its fault or its request the flags (40_sampler.md R131 to R135). -/
theorem sampleIn_frame (m : Mode) (s : State) :
    ∃ tim sin cos st rdy err o, sampleIn m s =
      { s with
        raw.timCntSample := tim, raw.sincosS := sin, raw.sincosC := cos
        status := st, isReady := rdy, error := err, out := o } := by
  cases m with
  | incremental => exact ⟨_, _, _, _, _, _, _, rfl⟩
  | hall => exact ⟨_, _, _, _, _, _, _, rfl⟩
  | sincos => exact ⟨_, _, _, _, _, _, _, rfl⟩
  | abs v =>
    rw [sampleIn, sampleAbs]
    split
    · exact ⟨_, _, _, _, _, _, _, rfl⟩
    · exact ⟨_, _, _, _, _, _, _, rfl⟩
  | unsupported => exact ⟨_, _, _, _, _, _, _, rfl⟩

/-- A SPI_DONE with a next state writes the receive buffer and perhaps the latched position (44_abs_spi.md R202, R203). -/
theorem execSpiDone_frame {ok : Bool} {frame : BitVec 16} {s t : State} (h : execSpiDone ok frame s = .next t) :
    ∃ p st o, t = { s with spi.posAbs := p, spi.rx := frame, status := st, out := o } := by
  unfold execSpiDone spiCompletion at h
  split at h
  · cases h
  · split at h
    · cases h; exact ⟨_, _, _, rfl⟩
    · split at h
      · cases h
        unfold latchFrame
        split
        · exact ⟨_, _, _, rfl⟩
        · exact ⟨_, _, _, rfl⟩
      · cases h; exact ⟨_, _, _, rfl⟩

/-- A SET_CIRCULAR_COUNT with a next state passed its gate (41_tracker.md R154). -/
theorem execSetCircularCount_next {n : BitVec 32} {u : Bool} {s t : State}
    (h : execSetCircularCount n u s = .next t) :
    circularGate s = none ∧ t = finish .ok (writeCircular n.toInt u s) := by
  unfold execSetCircularCount at h
  split at h
  · cases h
  · rename_i hg; cases h; exact ⟨hg, rfl⟩

/-- An UPDATE_PLL_GAINS with a next state writes the gains and perhaps raises its fault (42_pll.md R160). -/
theorem execUpdatePllGains_frame {s t : State} (h : execUpdatePllGains s = .next t) :
    ∃ kp ki st rdy err o, t =
      { s with est.kp := kp, est.ki := ki, status := st, isReady := rdy, error := err, out := o } := by
  unfold execUpdatePllGains at h
  split at h
  · cases h
  · split at h
    · cases h; exact ⟨_, _, _, _, _, _, rfl⟩
    · cases h; exact ⟨_, _, _, _, _, _, rfl⟩

/-- A REG_READ with a next state gives out something and changes nothing (45_system.md R230). -/
theorem execRegRead_frame {idx : BitVec 8} {s t : State} (h : execRegRead idx s = .next t) :
    ∃ o, t = { s with out := o } := by
  unfold execRegRead at h
  split at h
  · cases h
  · cases h; exact ⟨_, rfl⟩

/-- What an INDEX_PULSE with a next state can write (45_system.md R220 to R223). -/
theorem execIndexPulse_frame {s t : State} (h : execIndexPulse s = .next t) :
    ∃ off rdy found sc cc pe pc st hw o, t =
      { s with
        cfg.phaseOffset := off, isReady := rdy, indexFound := found, est.shadowCount := sc, est.countInCpr := cc
        est.posEstimate := pe, est.posCpr := pc, status := st, hwcnt := hw, out := o } := by
  rcases execIndexPulse_cases h with ⟨rfl, -⟩ | ⟨-, -, -, u, hu, rfl⟩
  · exact ⟨_, _, _, _, _, _, _, _, _, _, rfl⟩
  · obtain ⟨a, b, c, rfl⟩ := linearOffset_frame hu
    exact ⟨_, _, _, _, _, _, _, _, _, _, rfl⟩

/-! The registers that an operation is not listed as a writer of. -/

/-- Register `r` has the same content in both states and counts as written in both or in neither. -/
def RegKept (r : Reg) (s t : State) : Prop :=
  regContent r t = regContent r s ∧ holdsValue r t = holdsValue r s

/-- Every register that the table does not list `i` as a writer of is kept (10_state.md R22). -/
def OthersKept (i : Instr) (s t : State) : Prop := ∀ r, mayWrite r i = false → RegKept r s t

@[simp] theorem isHallScratch_hallcalAcc (k : Fin 6) : isHallScratch (.hallcalAcc k) = true := by
  revert k; decide

@[simp] theorem isHallScratch_hallcalSeen (k : Fin 6) : isHallScratch (.hallcalSeen k) = true := by
  revert k; decide

@[simp] theorem isHallScratch_lastHallCnt : isHallScratch .lastHallCnt = true := by decide

theorem execSample_othersKept {s t : State} (h : execSample s = .next t) : OthersKept .sample s t := by
  obtain ⟨tim, sin, cos, st, rdy, err, o, ht⟩ := sampleIn_frame s.mode s
  cases h
  rw [ht]
  intro r hr
  cases r <;> first | exact ⟨rfl, rfl⟩ | cases hr

theorem execUpdate_othersKept {s t : State} (h : execUpdate s = .next t) : OthersKept .update s t := by
  rcases execUpdate_frame h with ⟨k, hs, b, rate, rfl⟩ | ⟨hs, c, rate, upd, e, rfl, hkp, hki, -⟩
  · intro r hr
    cases r <;> first | exact ⟨rfl, rfl⟩ | cases hr
  · intro r hr
    cases r with
    | pllKp => exact ⟨congrArg F32.bits hkp, rfl⟩
    | pllKi => exact ⟨congrArg F32.bits hki, rfl⟩
    | hallcalAcc | hallcalSeen => simp [mayWrite] at hr
    | _ => first | exact ⟨rfl, rfl⟩ | cases hr

theorem execIndexPulse_othersKept {s t : State} (h : execIndexPulse s = .next t) : OthersKept .indexPulse s t := by
  obtain ⟨off, rdy, found, sc, cc, pe, pc, st, hw, o, rfl⟩ := execIndexPulse_frame h
  intro r hr
  cases r <;> first | exact ⟨rfl, rfl⟩ | cases hr

theorem execSpiDone_othersKept {ok : Bool} {frame : BitVec 16} {s t : State} (h : execSpiDone ok frame s = .next t) :
    OthersKept (.spiDone ok frame) s t := by
  obtain ⟨p, st, o, rfl⟩ := execSpiDone_frame h
  intro r hr
  cases r <;> first | exact ⟨rfl, rfl⟩ | cases hr

theorem execSetLinearCount_othersKept {n : BitVec 32} {s t : State} (h : execSetLinearCount n s = .next t) :
    OthersKept (.setLinearCount n) s t := by
  cases h
  intro r hr
  cases r <;> first | exact ⟨rfl, rfl⟩ | cases hr

theorem execSetCircularCount_othersKept {n : BitVec 32} {u : Bool} {s t : State}
    (h : execSetCircularCount n u s = .next t) : OthersKept (.setCircularCount n u) s t := by
  obtain ⟨-, rfl⟩ := execSetCircularCount_next h
  intro r hr
  cases r <;> first | exact ⟨rfl, rfl⟩ | cases hr

theorem execUpdatePllGains_othersKept {s t : State} (h : execUpdatePllGains s = .next t) :
    OthersKept .updatePllGains s t := by
  obtain ⟨kp, ki, st, rdy, err, o, rfl⟩ := execUpdatePllGains_frame h
  intro r hr
  cases r <;> first | exact ⟨rfl, rfl⟩ | cases hr

theorem execRaiseError_othersKept {mask : BitVec 8} {s t : State} (h : execRaiseError mask s = .next t) :
    OthersKept (.raiseError mask) s t := by
  cases h
  rw [raiseAll_frame]
  intro r hr
  cases r <;> first | exact ⟨rfl, rfl⟩ | cases hr

theorem execHallcalStart_othersKept {s t : State} (h : execHallcalStart s = .next t) : OthersKept .hallcalStart s t := by
  cases h
  intro r hr
  cases r with
  | hallcalAcc | hallcalSeen => simp [mayWrite] at hr
  | _ => first | exact ⟨rfl, rfl⟩ | cases hr

/-- The counter's steps write `HWCNT` alone. -/
theorem regKept_hwcnt {r : Reg} (s : State) (hw : BitVec 16) (o : Outputs) (hr : r ≠ .hwcnt) :
    RegKept r s { s with hwcnt := hw, out := o } := by
  cases r <;> first | exact ⟨rfl, rfl⟩ | exact absurd rfl hr

/-- The operations on the index interrupt and the sampling switch write `STATUS` alone. -/
theorem regKept_status {r : Reg} (s : State) (st : Status) (o : Outputs) (hr : r ≠ .status) :
    RegKept r s { s with status := st, out := o } := by
  cases r <;> first | exact ⟨rfl, rfl⟩ | exact absurd rfl hr

/-- CLEAR_ERRORS writes `ERROR` alone. -/
theorem regKept_error {r : Reg} (s : State) (e : BitVec 8) (o : Outputs) (hr : r ≠ .error) :
    RegKept r s { s with error := e, out := o } := by
  cases r <;> first | exact ⟨rfl, rfl⟩ | exact absurd rfl hr

theorem regKept_out (r : Reg) (s : State) (o : Outputs) : RegKept r s { s with out := o } := by
  cases r <;> exact ⟨rfl, rfl⟩

/-- A write of one register keeps every other (45_system.md R231). -/
theorem regKept_writeContent {r w : Reg} (v : Word) (s : State) (hr : w ≠ r) : RegKept r s (writeContent w v s) := by
  cases w with
  | cfgHallEdge k =>
    cases r with
    | cfgHallEdge j =>
      have hjk : j ≠ k := fun h => hr (by rw [h])
      exact ⟨congrArg F32.bits (Six.get_set_other s.cfg.hallEdge j k ⟨v⟩ hjk), rfl⟩
    | _ => exact ⟨rfl, rfl⟩
  | _ => cases r <;> first | exact ⟨rfl, rfl⟩ | exact absurd rfl hr

theorem execRegWrite_othersKept {idx : BitVec 8} {v : Word} {s t : State} (h : execRegWrite idx v s = .next t) :
    OthersKept (.regWrite idx v) s t := by
  obtain ⟨w, hw, -, -, rfl⟩ := execRegWrite_cases h
  intro r hr
  have hne : w ≠ r := fun e => of_decide_eq_false hr (by rw [hw, e])
  obtain ⟨hc, hv⟩ := regKept_writeContent v s hne
  obtain ⟨hc', hv'⟩ := regKept_out r (writeContent w v s) (Outputs.plain .ok)
  exact ⟨hc'.trans hc, hv'.trans hv⟩

/-- Every operation keeps the registers that the table does not list it as a writer of. -/
theorem exec_othersKept {i : Instr} {s t : State} (h : exec i s = .next t) : OthersKept i s t := by
  cases i with
  | sample => exact execSample_othersKept h
  | update => exact execUpdate_othersKept h
  | indexPulse => exact execIndexPulse_othersKept h
  | spiDone ok frame => exact execSpiDone_othersKept h
  | countUp => cases h; exact fun r hr => regKept_hwcnt s _ _ (of_decide_eq_false hr)
  | countDown => cases h; exact fun r hr => regKept_hwcnt s _ _ (of_decide_eq_false hr)
  | setLinearCount n => exact execSetLinearCount_othersKept h
  | setCircularCount n u => exact execSetCircularCount_othersKept h
  | updatePllGains => exact execUpdatePllGains_othersKept h
  | raiseError mask => exact execRaiseError_othersKept h
  | clearErrors => cases h; exact fun r hr => regKept_error s _ _ (of_decide_eq_false hr)
  | armIndex => cases h; exact fun r hr => regKept_status s _ _ (of_decide_eq_false hr)
  | disarmIndex => cases h; exact fun r hr => regKept_status s _ _ (of_decide_eq_false hr)
  | hallcalStart => exact execHallcalStart_othersKept h
  | hallcalStop => cases h; exact fun r hr => regKept_status s _ _ (of_decide_eq_false hr)
  | regRead idx =>
    obtain ⟨o, rfl⟩ := execRegRead_frame h
    exact fun r _ => regKept_out r s o
  | regWrite idx v => exact execRegWrite_othersKept h

/-- Settles O28: the frame of each operation, register by register. -/
theorem registersChangeOnlyByTheirWriters : Obligations.RegistersChangeOnlyByTheirWriters :=
  fun _ _ _ r h hr => exec_othersKept h r hr

end Sys2Proof.Machine
end

section
/-! PROOFS. What a step keeps (10_state.md R51): an invariant of the registers is kept by every step once every operation
keeps it, and each operation's effect on the bounded registers is said once. -/

namespace Sys2Proof

theorem F32.eq_of_bits {x y : F32} (h : x.bits = y.bits) : x = y := congrArg F32.mk h

/-- `f32(i)` is exact for `0 <= i <= 2^24` (00_scope.md R17). -/
theorem F32.ofInt_units_exact (n : Nat) (h : n ≤ 2 ^ 24) : (F32.ofInt n).units = (n * 2 ^ 149 : Nat) := by
  obtain ⟨m, hm, hval⟩ := F32.int_representable n h
  have hround := F32.roundMag_exact m 1 (by decide) hm.le
  rw [mul_one, hval] at hround
  have hunits : (n : Int) * F32.one149 = (n * 2 ^ 149 : Nat) := by rw [F32.one149, Nat.cast_mul]
  rw [F32.ofInt, hunits, F32.ofUnits_units, if_neg (by omega), Int.natAbs_natCast, hround, hval]

/-- Below a bound that a binary32 number holds exactly, an integer's conversion stays below the bound's. -/
theorem F32.ofInt_lt (i j : Int) (h0 : 0 ≤ i) (hij : i < j) (hj : j ≤ 16777216) :
    F32.zero.le (F32.ofInt i) = true ∧ (F32.ofInt i).lt (F32.ofInt j) = true := by
  obtain ⟨n, rfl⟩ := Int.eq_ofNat_of_zero_le h0
  obtain ⟨k, rfl⟩ := Int.eq_ofNat_of_zero_le (h0.trans hij.le)
  have hn := F32.ofInt_units_exact n (by omega)
  have hk := F32.ofInt_units_exact k (by omega)
  have hlt : n * 2 ^ 149 < k * 2 ^ 149 := Nat.mul_lt_mul_of_pos_right (by omega) (by positivity)
  rw [F32.le_iff, F32.lt_iff, hn, hk, F32.zero_units]
  exact ⟨⟨F32.zero_isNaN, F32.ofInt_isNaN _, by omega⟩, F32.ofInt_isNaN _, F32.ofInt_isNaN _, by omega⟩

namespace Machine

/-! One step. -/

/-- A step with a next state does nothing, or performs the operation that the next request's word decodes to. -/
theorem step_next {s t : State} (h : step s = .next t) :
    t = s ∨ ∃ r rest i, s.pending = r :: rest ∧ decode r.word = .ok i ∧
      exec i (enter i r.ports { s with pending := rest }) = .next t := by
  unfold step at h
  split at h
  · cases h; exact .inl rfl
  · rename_i r rest hp
    split at h
    · cases h
    · rename_i i ha
      refine .inr ⟨r, rest, i, hp, ?_, h⟩
      unfold accept at ha
      split at ha
      · cases ha
      · rename_i j hj
        split at ha
        · cases ha; exact hj
        · cases ha

/-- A property of the registers that every operation keeps is kept by every step. -/
theorem step_keeps {P : State → Prop} (henter : ∀ i p q s, P s → P (enter i p { s with pending := q }))
    (hexec : ∀ i s t, exec i s = .next t → P s → P t) (s t : State) (hs : P s) (h : step s = .next t) : P t := by
  rcases step_next h with rfl | ⟨r, rest, i, -, -, hx⟩
  · exact hs
  · exact hexec i _ t hx (henter i r.ports rest s hs)

/-! Registers of class `ro`. -/

/-- An index names one register, whose index it is (10_state.md R22). -/
theorem eq_index_of_ofIndex {idx : BitVec 8} {r : Reg} (h : Reg.ofIndex idx = some r) : idx = r.index := by
  unfold Reg.ofIndex at h
  split at h <;> cases h
  all_goals
    apply BitVec.eq_of_toNat_eq
    assumption

/-- A register of class `ro` is kept by every operation that is not listed as its writer, and by every REG_WRITE. -/
theorem exec_regKept_of_ro {i : Instr} {s t : State} {r : Reg} (h : exec i s = .next t) (hro : r.hostClass = .ro)
    (hw : mayWrite r i = true → i.op = .regWrite) : RegKept r s t := by
  cases hm : mayWrite r i with
  | false => exact exec_othersKept h r hm
  | true =>
    have hop := hw hm
    cases i with
    | regWrite idx v =>
      obtain ⟨w, hwr, hne, -, -⟩ := execRegWrite_cases h
      refine exec_othersKept h r (decide_eq_false fun e => hne ?_)
      rw [← Option.some.inj (hwr.symm.trans e)] at hro
      exact hro
    | _ => cases hop

end Machine
end Sys2Proof
end

section
/-! PROOFS. The bounded registers (10_state.md R51): what UPDATE leaves in them, what the rebases leave in them, and that
every step keeps each bound. -/

namespace Sys2Proof.Machine

/-! Step 1 of UPDATE. -/

/-- A table of running means after at most one more sample, which is a wrapped angle (43_hall.md R194). -/
def MeansUpdated (c c' : HallCal) : Prop :=
  c'.acc = c.acc ∨ ∃ k m, InPhaseRange m ∧ c'.acc = c.acc.set k m

theorem sampleEdge_goOn {h : Fin 6} {s t : State} (hs : sampleEdge h s = .goOn t) :
    MeansUpdated s.hallCal t.hallCal := by
  unfold sampleEdge at hs
  split at hs
  · cases hs; exact .inl rfl
  · split at hs
    · cases hs
    · cases hs; exact .inl rfl
    · split at hs
      · split at hs
        · cases hs
        · rename_i k _ _ _ c hc
          cases hs
          obtain ⟨m, hm, rfl⟩ := averageEdge_some hc
          exact .inr ⟨k, m, circularMean_range hm, rfl⟩
      · cases hs; exact .inl rfl

/-- What a Hall UPDATE latches: nothing, or a sequence count (43_hall.md R192, R193); and how the means have moved. -/
theorem hallStep_moved {s u : State} {d : Int} {l : Option Word} (hm : hallStep s = .moved d l u) :
    (l = none ∨ ∃ h : Fin 6, l = some (BitVec.ofNat 32 h.val)) ∧ MeansUpdated s.hallCal u.hallCal := by
  unfold hallStep at hm
  split at hm
  · unfold illegalHall at hm
    split at hm
    · cases hm; exact ⟨.inl rfl, .inl rfl⟩
    · cases hm
  · rename_i h _
    unfold legalHall at hm
    split at hm
    · split at hm
      · rename_i v hv
        cases hm
        exact ⟨.inr ⟨h, rfl⟩, sampleEdge_goOn (s := loadHall s) hv⟩
      · cases hm
      · cases hm
    · cases hm; exact ⟨.inr ⟨h, rfl⟩, .inl rfl⟩

/-- What an ABS UPDATE latches: the 14-bit position (44_abs_spi.md R206). -/
theorem absStep_moved {s u : State} {d : Int} {l : Option Word} (hm : absStep s = .moved d l u) :
    (∃ p : BitVec 14, l = some (p.setWidth 32)) ∧ u.hallCal = s.hallCal := by
  rcases absStep_cases s with ⟨-, hc⟩ | ⟨-, -, hc⟩ | ⟨-, -, hc⟩ <;> rw [hc] at hm <;> cases hm
  · exact ⟨⟨_, rfl⟩, rfl⟩
  · exact ⟨⟨_, rfl⟩, rfl⟩

/-- What step 1 of UPDATE latches, by mode, and how the means have moved. -/
theorem stepOne_latch {s u : State} {d : Int} {l : Option Word} (hm : stepOne s = .moved d l u) :
    s.mode ≠ .unsupported ∧ MeansUpdated s.hallCal u.hallCal ∧
      (l = none ∨ (s.mode = .hall ∧ ∃ h : Fin 6, l = some (BitVec.ofNat 32 h.val)) ∨
        ((∃ v, s.mode = .abs v) ∧ ∃ p : BitVec 14, l = some (p.setWidth 32))) := by
  unfold stepOne at hm
  split at hm
  · rename_i he; cases hm; exact ⟨by rw [he]; nofun, .inl rfl, .inl rfl⟩
  · rename_i he
    obtain ⟨hl | hl, hc⟩ := hallStep_moved hm
    · exact ⟨by rw [he]; nofun, hc, .inl hl⟩
    · exact ⟨by rw [he]; nofun, hc, .inr (.inl ⟨he, hl⟩)⟩
  · rename_i he; cases hm; exact ⟨by rw [he]; nofun, .inl rfl, .inl rfl⟩
  · rename_i v he
    obtain ⟨hl, hc⟩ := absStep_moved hm
    exact ⟨by rw [he]; nofun, .inl (by rw [hc]), .inr (.inr ⟨⟨v, he⟩, hl⟩)⟩
  · cases hm

theorem latchedHall_toInt (h : Fin 6) : (BitVec.ofNat 32 h.val).toInt = h.val := by revert h; decide

theorem latchedPosition_toInt (p : BitVec 14) : (p.setWidth 32 : Word).toInt = p.toNat := by
  have := p.isLt
  rw [BitVec.toInt_eq_toNat_of_lt] <;> simp <;> omega

/-- The count after a delta lies in `[0, cpr)` (41_tracker.md R148, R149): reduced modulo `cpr`, or latched from a sensor
whose range the mode's condition on `cpr` covers (10_state.md R39). -/
theorem nextCount_range {s u : State} {d : Int} {l : Option Word} (hg : updateGate s = none)
    (hm : stepOne s = .moved d l u) :
    0 ≤ (nextCount d l s).toInt ∧ (nextCount d l s).toInt < s.cfg.cpr.toInt := by
  obtain ⟨hsup, -, hl⟩ := stepOne_latch hm
  have hok := (updateLegal_iff s).mpr ⟨hg, hsup⟩
  have hpos := hok.cprPositive
  rcases hl with rfl | ⟨hmode, h, rfl⟩ | ⟨⟨v, hmode⟩, p, rfl⟩
  · simp only [nextCount]
    rw [wrap32_mod_toInt _ _ hpos]
    exact ⟨Int.emod_nonneg _ hpos.ne', Int.emod_lt_of_pos _ hpos⟩
  · have hcpr := hok.cprFits.hall ((mode_hall_iff s).mp hmode)
    simp only [nextCount]
    rw [latchedHall_toInt]
    omega
  · obtain ⟨-, hcpr⟩ := hok.cprFits.abs v ((mode_abs_iff s v).mp hmode)
    simp only [nextCount]
    rw [latchedPosition_toInt]
    omega

/-! UPDATE. -/

/-- What a complete UPDATE that began in `s` leaves in the registers with a bound: the scratch `c` and the estimator `e`. -/
structure UpdateTracked (s : State) (c : HallCal) (e : Est) : Prop where
  means : MeansUpdated s.hallCal c
  count : 0 ≤ e.countInCpr.toInt ∧ e.countInCpr.toInt < s.cfg.cpr.toInt
  posCpr : F32.zero.le e.posCpr = true ∧ e.posCpr.lt (F32.ofInt s.cfg.cpr.toInt) = true
  interpolation : F32.zero.le e.interpolation = true ∧ e.interpolation.le F32.one = true
  phase : e.phase = s.est.phase ∨ InPhaseRange e.phase

theorem interpolate_range (dt : F32) (frozen : Bool) (d : Int) (e : Est) :
    F32.zero.le (interpolate dt frozen d e) = true ∧ (interpolate dt frozen d e).le F32.one = true := by
  rcases interpolate_cases dt frozen d e with h | h | h | ⟨x, h⟩ <;> rw [h]
  · decide
  · decide
  · decide
  · exact clampUnit_range x

/-- An UPDATE with a next state leaves the estimator and the means as they were, or leaves all of them in range. -/
theorem execUpdate_tracked {s t : State} (h : execUpdate s = .next t) :
    (t.est = s.est ∧ t.hallCal = s.hallCal) ∨ UpdateTracked s t.hallCal t.est := by
  obtain ⟨hg, ⟨k, hs, b, rate, rfl⟩ | ⟨d, l, u, a, v, hm, he, hp, rfl⟩⟩ := execUpdate_next h
  · exact .inl ⟨rfl, rfl⟩
  · obtain ⟨-, hmeans, -⟩ := stepOne_latch hm
    have hcount := nextCount_range hg hm
    obtain ⟨hs, c, rate, upd, rfl⟩ := stepOne_moved hm
    obtain ⟨counts, e, -, ht, rfl⟩ := estimate_track he
    obtain ⟨-, hcc, hph, -, -, -, hnum, ⟨x, hpos⟩, ⟨dt, frozen, e', hint⟩⟩ := track_frame ht
    have hposRange : F32.zero.le e.posCpr = true ∧ e.posCpr.lt (F32.ofInt s.cfg.cpr.toInt) = true := by
      rw [hpos] at hnum ⊢
      exact F32.fmodPos_range _ _ hnum
    have hcountRange : 0 ≤ e.countInCpr.toInt ∧ e.countInCpr.toInt < s.cfg.cpr.toInt := hcc ▸ hcount
    have hintRange := hint ▸ interpolate_range dt frozen d e'
    right
    rw [finish_est, finish_hallCal, validityFlags_est, validityFlags_hallCal]
    rcases emitPhase_ok hp with ⟨-, rfl⟩ | ⟨-, ph, hwrap, rfl⟩
    · exact ⟨hmeans, hcountRange, hposRange, hintRange, .inl hph⟩
    · exact ⟨hmeans, hcountRange, hposRange, hintRange, .inr (F32.wrapPm_twoPi_range _ _ hwrap)⟩

/-! The rebases. -/

theorem circularGate_eq_none (s : State) : circularGate s = none ↔ CprLegal s := by
  rw [circularGate, ← cprOk_iff]
  split <;> simp_all

theorem indexGate_eq_none (s : State) : indexGate s = none ↔ CprLegal s := circularGate_eq_none s

theorem writeCircular_countInCpr (n : Int) (u : Bool) {s : State} (h : CprLegal s) :
    0 ≤ (writeCircular n u s).est.countInCpr.toInt ∧
      (writeCircular n u s).est.countInCpr.toInt < s.cfg.cpr.toInt := by
  have hpos := h.positive
  rw [writeCircular_est]
  simp only [circularCount]
  rw [wrap32_mod_toInt _ _ hpos]
  exact ⟨Int.emod_nonneg _ hpos.ne', Int.emod_lt_of_pos _ hpos⟩

/-- The rebase of the cpr-local position (41_tracker.md R154): none, or to a count that a `cpr` of at most 2^24 keeps exact. -/
theorem writeCircular_posCpr (n : Int) (u : Bool) {s : State} (h : CprLegal s)
    (hexact : s.params.circRebasePll = false ∨ s.cfg.cpr.toInt ≤ 16777216) :
    (writeCircular n u s).est.posCpr = s.est.posCpr ∨
      (F32.zero.le (writeCircular n u s).est.posCpr = true ∧
        (writeCircular n u s).est.posCpr.lt (F32.ofInt s.cfg.cpr.toInt) = true) := by
  have hpos := h.positive
  rw [writeCircular_est]
  cases hr : s.params.circRebasePll with
  | false => exact .inl rfl
  | true =>
    have hsmall : s.cfg.cpr.toInt ≤ 16777216 := hexact.resolve_left (by simp [hr])
    exact .inr (F32.ofInt_lt _ _ (Int.emod_nonneg _ hpos.ne') (Int.emod_lt_of_pos _ hpos) hsmall)

/-! What an operation leaves in each bounded register. -/

/-- PHASE, PHASE_VEL and INTERPOLATION have one writer (10_state.md R22). -/
theorem exec_regKept_of_ne_update {i : Instr} {s t : State} {r : Reg} (h : exec i s = .next t) (hi : i ≠ .update)
    (hr : r = .phase ∨ r = .phaseVel ∨ r = .interpolation) : RegKept r s t := by
  have hro : r.hostClass = .ro := by rcases hr with rfl | rfl | rfl <;> rfl
  refine exec_regKept_of_ro h hro fun hw => ?_
  cases i with
  | update => exact absurd rfl hi
  | regWrite => rfl
  | _ => rcases hr with rfl | rfl | rfl <;> cases hw

theorem exec_interpolation {i : Instr} {s t : State} (h : exec i s = .next t) :
    t.est.interpolation = s.est.interpolation ∨ InterpolationInUnit t := by
  by_cases hi : i = .update
  · subst hi
    rcases execUpdate_tracked h with ⟨he, -⟩ | ht
    · exact .inl (by rw [he])
    · exact .inr ht.interpolation
  · exact .inl (F32.eq_of_bits (exec_regKept_of_ne_update h hi (.inr (.inr rfl))).1)

theorem exec_phase {i : Instr} {s t : State} (h : exec i s = .next t) :
    t.est.phase = s.est.phase ∨ InPhaseRange t.est.phase := by
  by_cases hi : i = .update
  · subst hi
    rcases execUpdate_tracked h with ⟨he, -⟩ | ht
    · exact .inl (by rw [he])
    · exact ht.phase
  · exact .inl (F32.eq_of_bits (exec_regKept_of_ne_update h hi (.inl rfl)).1)

/-- The running means move in UPDATE, by one wrapped sample, and HALLCAL_START zeroes them (45_system.md R226). -/
theorem exec_means {i : Instr} {s t : State} (h : exec i s = .next t) (k : Fin 6)
    (hk : InPhaseRange (s.hallCal.acc.get k)) : InPhaseRange (t.hallCal.acc.get k) := by
  cases i with
  | update =>
    have hm : MeansUpdated s.hallCal t.hallCal := by
      rcases execUpdate_tracked h with ⟨-, hc⟩ | ht
      · exact .inl (by rw [hc])
      · exact ht.means
    rcases hm with ha | ⟨j, m, hm, ha⟩ <;> rw [ha]
    · exact hk
    · rw [six_get_set]
      split
      · exact hm
      · exact hk
  | hallcalStart =>
    cases h
    rw [finish_hallCal, Six.get_all]
    decide
  | _ =>
    have hkept : RegKept (.hallcalAcc k) s t := exec_regKept_of_ro h rfl fun hw => by first | rfl | cases hw
    rw [F32.eq_of_bits hkept.1]
    exact hk

/-- The two circular positions are kept, or UPDATE tracks them, or a rebase under a legal `cpr` writes them. -/
theorem exec_circular_cases {i : Instr} {s t : State} (h : exec i s = .next t) :
    (t.est.countInCpr = s.est.countInCpr ∧ t.est.posCpr = s.est.posCpr) ∨ UpdateTracked s t.hallCal t.est ∨
      (CprLegal s ∧ ∃ n u, t.est.countInCpr = (writeCircular n u s).est.countInCpr ∧
        t.est.posCpr = (writeCircular n u s).est.posCpr) := by
  cases i with
  | update =>
    rcases execUpdate_tracked h with ⟨he, -⟩ | ht
    · exact .inl (by rw [he]; exact ⟨rfl, rfl⟩)
    · exact .inr (.inl ht)
  | indexPulse =>
    rcases execIndexPulse_cases h with ⟨rfl, -⟩ | ⟨-, -, hg, u, hu, rfl⟩
    · exact .inl ⟨rfl, rfl⟩
    · obtain ⟨a, b, c, rfl⟩ := linearOffset_frame hu
      exact .inr (.inr ⟨(indexGate_eq_none s).mp hg, 0, s.params.indexUpdateOffset, rfl, rfl⟩)
  | setCircularCount n u =>
    obtain ⟨hg, rfl⟩ := execSetCircularCount_next h
    exact .inr (.inr ⟨(circularGate_eq_none s).mp hg, n.toInt, u, rfl, rfl⟩)
  | _ =>
    have hc : RegKept .countInCpr s t := exec_regKept_of_ro h rfl fun hw => by first | rfl | cases hw
    have hp : RegKept .posCprCounts s t := exec_regKept_of_ro h rfl fun hw => by first | rfl | cases hw
    exact .inl ⟨hc.1, F32.eq_of_bits hp.1⟩

/-- `COUNT_IN_CPR` is kept, or set to a value in `[0, cpr)`. -/
theorem exec_countInCpr {i : Instr} {s t : State} (h : exec i s = .next t) :
    t.est.countInCpr = s.est.countInCpr ∨
      (0 ≤ t.est.countInCpr.toInt ∧ t.est.countInCpr.toInt < s.cfg.cpr.toInt) := by
  rcases exec_circular_cases h with ⟨hc, -⟩ | ht | ⟨hl, n, u, hc, -⟩
  · exact .inl hc
  · exact .inr ht.count
  · rw [hc]; exact .inr (writeCircular_countInCpr n u hl)

/-- `POS_CPR_COUNTS` is kept, or set to a value in `[0, cpr)`; for a rebase, where `cpr` is at most 2^24 (log 31). -/
theorem exec_posCpr {i : Instr} {s t : State} (h : exec i s = .next t)
    (hexact : s.params.circRebasePll = false ∨ s.cfg.cpr.toInt ≤ 16777216) :
    t.est.posCpr = s.est.posCpr ∨
      (F32.zero.le t.est.posCpr = true ∧ t.est.posCpr.lt (F32.ofInt s.cfg.cpr.toInt) = true) := by
  rcases exec_circular_cases h with ⟨-, hp⟩ | ht | ⟨hl, n, u, -, hp⟩
  · exact .inl hp
  · exact .inr ht.posCpr
  · rw [hp]; exact writeCircular_posCpr n u hl hexact

/-- `CFG_CPR` is kept with its written bit, or a REG_WRITE sets it and moves no estimator register. -/
theorem exec_cpr {i : Instr} {s t : State} (h : exec i s = .next t) :
    (∃ v, i = .regWrite 0x01 v ∧ t.cfg.cpr = v ∧ t.est = s.est) ∨
      (t.cfg.cpr = s.cfg.cpr ∧ t.written.cpr = s.written.cpr) := by
  cases hm : mayWrite .cfgCpr i with
  | false => exact .inr (exec_othersKept h .cfgCpr hm)
  | true =>
    cases i with
    | regWrite idx v =>
      have hidx : Reg.ofIndex idx = some .cfgCpr := of_decide_eq_true hm
      obtain ⟨w, hw, -, -, rfl⟩ := execRegWrite_cases h
      obtain rfl : w = .cfgCpr := Option.some.inj (hw.symm.trans hidx)
      exact .inl ⟨v, by rw [eq_index_of_ofIndex hidx]; rfl, rfl, rfl⟩
    | _ => cases hm

/-! The invariants. -/

theorem phasesInRange_iff (s : State) :
    PhasesInRange s ↔ InPhaseRange s.est.phase ∧ ∀ k, InPhaseRange (s.hallCal.acc.get k) := by
  rw [Fin.forall_fin_succ, Fin.forall_fin_succ, Fin.forall_fin_succ, Fin.forall_fin_succ, Fin.forall_fin_succ,
    Fin.forall_fin_succ]
  exact ⟨fun ⟨p, a, b, c, d, e, f⟩ => ⟨p, a, b, c, d, e, f, nofun⟩,
    fun ⟨p, a, b, c, d, e, f, _⟩ => ⟨p, a, b, c, d, e, f⟩⟩

/-- Settles O48: an operation keeps the register or leaves one of the values of 42_pll.md R171 in it. -/
theorem stepKeepsInterpolationInUnit : Obligations.StepKeepsInterpolationInUnit := by
  refine step_keeps (fun _ _ _ _ h => h) fun i s t h hs => ?_
  rcases exec_interpolation h with he | ht
  · rw [InterpolationInUnit, he]; exact hs
  · exact ht

/-- Settles O49: an operation keeps the phase or leaves a wrapped one, and so with each running mean. -/
theorem stepKeepsPhasesInRange : Obligations.StepKeepsPhasesInRange := by
  refine step_keeps (fun _ _ _ _ h => h) fun i s t h hs => ?_
  rw [phasesInRange_iff] at hs ⊢
  obtain ⟨hphase, hmeans⟩ := hs
  refine ⟨?_, fun k => exec_means h k (hmeans k)⟩
  rcases exec_phase h with he | ht
  · rw [he]; exact hphase
  · exact ht

/-- Settles O51: REG_WRITE alone writes the register, and refuses an illegal value (45_system.md R231). -/
theorem stepKeepsDirectionLegal : Obligations.StepKeepsDirectionLegal := by
  refine step_keeps (fun _ _ _ _ h => h) fun i s t h hs => ?_
  cases hm : mayWrite .cfgDirection i with
  | false =>
    have hkept : t.cfg.direction = s.cfg.direction := (exec_othersKept h .cfgDirection hm).1
    rw [DirectionLegal, hkept]; exact hs
  | true =>
    cases i with
    | regWrite idx v =>
      obtain ⟨w, hw, -, hlegal, rfl⟩ := execRegWrite_cases h
      obtain rfl : w = .cfgDirection := Option.some.inj (hw.symm.trans (of_decide_eq_true hm))
      exact hlegal rfl
    | _ => cases hm

theorem exec_keeps_countInRange {i : Instr} {s t : State} (h : exec i s = .next t) (hs : CountInRange s)
    (hv : ∀ v, i = .regWrite 0x01 v → s.est.countInCpr.toInt < v.toInt) : CountInRange t := by
  rcases exec_cpr h with ⟨v, hi, hc, he⟩ | ⟨hc, hw⟩
  · rw [CountInRange, he, hc]
    exact ⟨hs.1, fun _ => hv v hi⟩
  · rw [CountInRange, hc, hw]
    rcases exec_countInCpr h with he | ⟨h0, hlt⟩
    · rw [he]; exact hs
    · exact ⟨h0, fun _ => hlt⟩

theorem exec_keeps_posCprInRange {i : Instr} {s t : State} (h : exec i s = .next t) (hs : PosCprInRange s)
    (hv : ∀ v, i = .regWrite 0x01 v → s.est.posCpr.lt (F32.ofInt v.toInt) = true)
    (hexact : s.params.circRebasePll = false ∨ s.cfg.cpr.toInt ≤ 16777216) : PosCprInRange t := by
  rcases exec_cpr h with ⟨v, hi, hc, he⟩ | ⟨hc, hw⟩
  · rw [PosCprInRange, he, hc]
    exact ⟨hs.1, fun _ => hv v hi⟩
  · rw [PosCprInRange, hc, hw]
    rcases exec_posCpr h hexact with he | ⟨h0, hlt⟩
    · rw [he]; exact hs
    · exact ⟨h0, fun _ => hlt⟩

/-- Settles O52: a value that an operation sets is below the `cpr` it kept, and a new `cpr` is above the count it kept. -/
theorem stepKeepsCountInRange : Obligations.StepKeepsCountInRange := by
  intro s t hs hv h
  rcases step_next h with rfl | ⟨r, rest, i, hp, hd, hx⟩
  · exact hs
  · exact exec_keeps_countInRange hx hs fun v hi => hv v ⟨r, rest, hp, hi ▸ hd⟩

/-- Settles O53, as O52; where CIRC_REBASE_PLL writes the position, the bound of 2^24 keeps the conversion of R154 exact. -/
theorem stepKeepsPosCprInRange : Obligations.StepKeepsPosCprInRange := by
  intro s t hs hv hexact h
  rcases step_next h with rfl | ⟨r, rest, i, hp, hd, hx⟩
  · exact hs
  · exact exec_keeps_posCprInRange hx hs (fun v hi => hv v ⟨r, rest, hp, hi ▸ hd⟩) hexact

/-- Settles O43: only UPDATE writes the two registers (10_state.md R22), and without `IS_READY` it keeps them. -/
theorem phaseMovesOnlyWhenReady : Obligations.PhaseMovesOnlyWhenReady := by
  intro i s t h hmoved
  by_cases hi : i = .update
  · subst hi
    refine ⟨rfl, Bool.of_not_eq_false fun hready => ?_⟩
    rcases execUpdate_frame h with ⟨k, hs, b, rate, rfl⟩ | ⟨hs, c, rate, upd, e, rfl, -, -, hkept⟩
    · exact hmoved.elim (fun hp => hp rfl) (fun hv => hv rfl)
    · obtain ⟨hp, hv⟩ := hkept hready
      exact hmoved.elim (fun hp' => hp' hp) (fun hv' => hv' hv)
  · have hp := exec_regKept_of_ne_update h hi (.inl rfl)
    have hv := exec_regKept_of_ne_update h hi (.inr (.inl rfl))
    exact hmoved.elim (fun hp' => absurd (F32.eq_of_bits hp.1) hp') (fun hv' => absurd (F32.eq_of_bits hv.1) hv')

end Sys2Proof.Machine
end

section
/-! PROOFS. The configuration's legality and the unsupported mode (10_state.md R50), the register table (R22) and the state
after reset (R55). -/

namespace Sys2Proof.Machine

/-! Illegal configurations. -/

theorem updateGate_of_illegal {s : State} (hmode : SupportedMode s.params.nAbs s.cfg.mode) (h : ¬ UpdateLegal s) :
    updateGate s = some .invalidConfig := by
  have hsup : s.mode ≠ .unsupported := fun hu => (mode_unsupported_iff s).mp hu hmode
  have hcfg : ¬ updateCfgOk s = true := fun hok =>
    h ((updateLegal_iff s).mpr ⟨by rw [updateGate, if_neg hsup, if_pos hok], hsup⟩)
  rw [updateGate, if_neg hsup, if_neg hcfg]

theorem circularGate_of_illegal {s : State} (h : ¬ CprLegal s) : circularGate s = some .invalidConfig := by
  rw [circularGate, if_neg (fun hok => h ((cprOk_iff s).mp hok))]

theorem indexGate_of_illegal {s : State} (h : ¬ CprLegal s) : indexGate s = some .invalidConfig :=
  circularGate_of_illegal h

/-- Right after reset `CFG_CPR` is 0 (log 8). -/
theorem reset_not_cprLegal : ¬ CprLegal State.reset := fun h => absurd h.positive (by decide)

/-- Settles O30: each of the three operations begins with its gate, which refuses exactly an illegal configuration. -/
theorem invalidConfigurationRefused : Obligations.InvalidConfigurationRefused := by
  refine ⟨fun s => ⟨fun hmode h => ?_, fun h => ⟨fun n u => ?_, ?_⟩⟩, fun h => reset_not_cprLegal h.cpr,
    reset_not_cprLegal⟩
  · simp only [exec, execUpdate, updateGate_of_illegal hmode h]
  · simp only [exec, execSetCircularCount, circularGate_of_illegal h]
  · simp only [exec, execIndexPulse, indexGate_of_illegal h]

/-! The unsupported mode. -/

theorem readyAfterFault_eq (p : Params) (k : FaultKind) (ready : Bool) :
    readyAfterFault p k ready = (ready && !p.readyClearMask.getLsbD (faultBit k)) := by
  rw [readyAfterFault]
  cases p.readyClearMask.getLsbD (faultBit k) <;> simp

theorem execUpdate_unsupported {s : State} (h : s.mode = .unsupported) :
    execUpdate s = .next (finish .fail (raiseFault .unsupportedMode s)) := by
  have hgate : updateGate s = none := if_pos h
  have hstep : stepOne s = .failed (raiseFault .unsupportedMode s) := by simp only [stepOne, h]
  simp only [execUpdate, hgate, hstep]

/-- Settles O12: both operations raise the one fault, whatever else the configuration holds. -/
theorem unsupportedModeFaults : Obligations.UnsupportedModeFaults := by
  intro s hs i hi
  have hmode := (mode_unsupported_iff s).mpr hs
  have hexec : exec i s = .next (finish .fail (raiseFault .unsupportedMode s)) := by
    rcases hi with rfl | rfl
    · simp only [exec, execSample, hmode, sampleIn]
    · exact execUpdate_unsupported hmode
  rw [hexec, finish, raiseFault, readyAfterFault_eq]
  rfl

/-! The register table. -/

theorem ofIndex_eq_none_iff (idx : BitVec 8) :
    Reg.ofIndex idx = none ↔
      (0x15 ≤ idx.toNat ∧ idx.toNat ≤ 0x17) ∨ (0x1C ≤ idx.toNat ∧ idx.toNat ≤ 0x1F) ∨ 0x41 ≤ idx.toNat := by
  unfold Reg.ofIndex
  have hlt := idx.isLt
  split
  case h_59 =>
    refine iff_of_true rfl ?_
    simp only [imp_false] at *
    omega
  all_goals exact iff_of_false nofun (by omega)

theorem hostClass_eq_ro_iff (r : Reg) : r.hostClass = .ro ↔ 0x20 ≤ r.index.toNat := by
  cases r with
  | cfgHallEdge k | hallcalAcc k | hallcalSeen k => revert k; decide
  | _ => decide

/-- Settles O25: the two directions of the table are inverse, the class follows the index, and the written bits are the twelve
that reset clears. -/
theorem registerTableAgrees : Obligations.RegisterTableAgrees := by
  refine ⟨ofIndex_eq_none_iff, ofIndex_index, hostClass_eq_ro_iff, fun r => ?_⟩
  cases r <;> simp [holdsValue, State.reset]

/-! The state after reset. -/

/-- Settles O54: each bound is evaluated on the reset state, in which no fault bit stands. -/
theorem invariantsAtReset : Obligations.InvariantsAtReset :=
  ⟨by decide, by decide, fun h => absurd rfl h, by decide, by decide, by decide⟩

/-- Settles O56: register by register. -/
theorem resetValues : Obligations.ResetValues := by
  refine ⟨fun r _ hne => ?_, rfl, rfl⟩
  cases r with
  | hwcnt => exact absurd rfl hne
  | cfgHallEdge k | hallcalAcc k | hallcalSeen k => fin_cases k <;> rfl
  | _ => rfl

end Sys2Proof.Machine
end

section
/-! PROOFS. What an operation does not look at: it commutes with laying other ports and other written bits over the state,
where it reads neither the ports that differ (10_state.md R52) nor the bits that differ (R50, log 8). -/

namespace Sys2Proof.Machine

/-- The state with other ports and other written bits laid over it. -/
def overlay (φ : Ports → Ports) (γ : Written → Written) (s : State) : State :=
  { s with ports := φ s.ports, written := γ s.written }

/-- An outcome with its next state seen through `f`. -/
def mapNext (f : State → State) (x : Host.Outcome State Fault Refusal) : Host.Outcome State Fault Refusal :=
  match x with
  | .next t => .next (f t)
  | .fault r => .fault r
  | .refused r => .refused r

/-- The result of step 1 of UPDATE with its state seen through `f`. -/
def Delta.mapState (f : State → State) (x : Delta) : Delta :=
  match x with
  | .moved d l s => .moved d l (f s)
  | .failed s => .failed (f s)
  | .refused r => .refused r

/-- The result of the edge sampling with its state seen through `f`. -/
def EdgeSample.mapState (f : State → State) (x : EdgeSample) : EdgeSample :=
  match x with
  | .goOn s => .goOn (f s)
  | .ambiguous s => .ambiguous (f s)
  | .refused r => .refused r

section
variable {φ : Ports → Ports} {γ : Written → Written} {s : State}

/-! UPDATE, stage by stage. -/

theorem sampleEdge_overlay (h : Fin 6) (hvalid : (φ s.ports).olPhaseValid = s.ports.olPhaseValid)
    (hphase : (φ s.ports).olPhase = s.ports.olPhase) :
    sampleEdge h (overlay φ γ s) = (sampleEdge h s).mapState (overlay φ γ) := by
  simp only [sampleEdge, overlay, hvalid, hphase]
  split
  · rfl
  · split
    · rfl
    · rfl
    · split
      · split
        · rfl
        · rfl
      · rfl

theorem legalHall_overlay (h : Fin 6)
    (hol : s.status.calibrateHallPhase = true →
      (φ s.ports).olPhaseValid = s.ports.olPhaseValid ∧ (φ s.ports).olPhase = s.ports.olPhase) :
    legalHall h (overlay φ γ s) = (legalHall h s).mapState (overlay φ γ) := by
  have hcal : (overlay φ γ s).status.calibrateHallPhase = s.status.calibrateHallPhase := rfl
  rw [legalHall, legalHall, hcal]
  split
  · rename_i hon
    obtain ⟨hvalid, hphase⟩ := hol hon
    rw [sampleEdge_overlay h hvalid hphase]
    cases sampleEdge h s <;> rfl
  · rfl

theorem illegalHall_overlay : illegalHall (overlay φ γ s) = (illegalHall s).mapState (overlay φ γ) := by
  have hflag : (overlay φ γ s).cfg.flags = s.cfg.flags := rfl
  rw [illegalHall, illegalHall, hflag]
  split
  · rfl
  · rfl

theorem loadHall_overlay (hsnap : (φ s.ports).hallSnapshot = s.ports.hallSnapshot) :
    loadHall (overlay φ γ s) = overlay φ γ (loadHall s) := by
  simp only [loadHall, overlay, hsnap]

theorem hallStep_overlay (hsnap : (φ s.ports).hallSnapshot = s.ports.hallSnapshot)
    (hol : s.status.calibrateHallPhase = true →
      (φ s.ports).olPhaseValid = s.ports.olPhaseValid ∧ (φ s.ports).olPhase = s.ports.olPhase) :
    hallStep (overlay φ γ s) = (hallStep s).mapState (overlay φ γ) := by
  have hcorr : correctedHall (overlay φ γ (loadHall s)) = correctedHall (loadHall s) := rfl
  rw [hallStep, hallStep, loadHall_overlay hsnap, hcorr]
  split
  · exact illegalHall_overlay
  · exact legalHall_overlay _ hol

theorem absStep_overlay : absStep (overlay φ γ s) = (absStep s).mapState (overlay φ γ) := by
  have hupd : (overlay φ γ s).status.absSpiPosUpdated = s.status.absSpiPosUpdated := rfl
  have hrate : (countMiss (overlay φ γ s)).spi.errorRate = (countMiss s).spi.errorRate := rfl
  rw [absStep, absStep, hupd, hrate]
  split
  · rfl
  · split
    · rfl
    · rfl

theorem stepOne_overlay (hp : PortsAgree .update s (φ s.ports) s.ports) :
    stepOne (overlay φ γ s) = (stepOne s).mapState (overlay φ γ) := by
  have hmode : (overlay φ γ s).mode = s.mode := rfl
  rw [stepOne, stepOne, hmode]
  split
  · rfl
  · rename_i hh
    obtain ⟨hsnap, hol⟩ := hp ((mode_hall_iff s).mp hh)
    exact hallStep_overlay hsnap hol
  · rfl
  · exact absStep_overlay
  · rfl

theorem estimate_overlay (d : Int) : estimate d (overlay φ γ s) = (estimate d s).map (overlay φ γ) := by
  have hc : modelledCounts (overlay φ γ s) = modelledCounts s := rfl
  have ht (m mc : Int) : track d m mc (overlay φ γ s) = track d m mc s := rfl
  simp only [estimate, hc, ht]
  split
  · rfl
  · split
    · rfl
    · rfl

theorem emitPhase_overlay : emitPhase (overlay φ γ s) = (emitPhase s).map (overlay φ γ) := by
  have hr : (overlay φ γ s).isReady = s.isReady := rfl
  have hraw : rawPhase (overlay φ γ s) = rawPhase s := rfl
  rw [emitPhase, emitPhase, hr, hraw]
  split
  · split
    · rfl
    · rfl
  · rfl

theorem validityFlags_overlay : validityFlags (overlay φ γ s) = overlay φ γ (validityFlags s) := by
  rw [validityFlags_eq, validityFlags_eq]
  rfl

theorem runObserver_overlay (d : Int) : runObserver d (overlay φ γ s) = mapNext (overlay φ γ) (runObserver d s) := by
  rw [runObserver, runObserver, estimate_overlay]
  cases estimate d s with
  | error r => rfl
  | ok t =>
    simp only [Except.map, emitPhase_overlay]
    cases emitPhase t with
    | error r => rfl
    | ok u =>
      simp only [validityFlags_overlay]
      rfl

theorem execUpdate_overlay (hp : PortsAgree .update s (φ s.ports) s.ports) :
    execUpdate (overlay φ γ s) = mapNext (overlay φ γ) (execUpdate s) := by
  have hg : updateGate (overlay φ γ s) = updateGate s := rfl
  rw [execUpdate, execUpdate, hg, stepOne_overlay hp]
  split
  · rfl
  · cases stepOne s with
    | refused r => rfl
    | failed t => rfl
    | moved d l t => exact runObserver_overlay (s := applyDelta d l t) d

/-! The other operations. -/

theorem execSample_overlay (hp : PortsAgree .sample s (φ s.ports) s.ports) :
    execSample (overlay φ γ s) = mapNext (overlay φ γ) (execSample s) := by
  have hmode : (overlay φ γ s).mode = s.mode := rfl
  obtain ⟨hadc, hspi⟩ := hp
  rw [execSample, execSample, hmode, mapNext]
  congr 1
  cases hm : s.mode with
  | sincos =>
    obtain ⟨hsin, hcos⟩ := hadc ((mode_sincos_iff s).mp hm)
    simp only [sampleIn, sampleSincos, overlay, finish, hsin, hcos]
  | abs v =>
    have hacc := hspi ⟨v, (mode_abs_iff s v).mp hm⟩
    have hfly : (overlay φ γ s).status = s.status := rfl
    rw [sampleIn, sampleIn, sampleAbs, sampleAbs, hfly]
    split
    · rfl
    · simp only [overlay, hacc, spiRequestOf]
  | incremental | hall | unsupported => rfl

theorem circularGate_overlay (hm : (γ s.written).mode = s.written.mode) :
    circularGate (overlay φ γ s) = circularGate s := by
  have hok : cprOk (overlay φ γ s) = cprOk s := by
    rw [cprOk, cprOk, show (overlay φ γ s).written.mode = s.written.mode from hm]
    rfl
  rw [circularGate, circularGate, hok]

theorem execSetCircularCount_overlay (n : BitVec 32) (u : Bool) (hm : (γ s.written).mode = s.written.mode) :
    execSetCircularCount n u (overlay φ γ s) = mapNext (overlay φ γ) (execSetCircularCount n u s) := by
  rw [execSetCircularCount, execSetCircularCount, circularGate_overlay hm]
  split
  · rfl
  · rfl

theorem linearOffset_overlay : linearOffset (overlay φ γ s) = (linearOffset s).map (overlay φ γ) := by
  have hcfg : (overlay φ γ s).cfg = s.cfg := rfl
  rw [linearOffset, linearOffset, hcfg]
  split
  · split
    · rfl
    · rfl
  · rfl

theorem execIndexPulse_overlay (hm : (γ s.written).mode = s.written.mode) :
    execIndexPulse (overlay φ γ s) = mapNext (overlay φ γ) (execIndexPulse s) := by
  have hg : indexGate (overlay φ γ s) = indexGate s := circularGate_overlay hm
  have harm : (overlay φ γ s).status.indexArmed = s.status.indexArmed := rfl
  have huse : (overlay φ γ s).cfg.flags.useIndex = s.cfg.flags.useIndex := rfl
  have hcirc (u : Bool) : writeCircular 0 u (overlay φ γ s) = overlay φ γ (writeCircular 0 u s) := rfl
  have hpar : (overlay φ γ s).params = s.params := rfl
  rw [execIndexPulse, execIndexPulse, hg, harm, huse, hpar, hcirc, linearOffset_overlay]
  split
  · rfl
  · split
    · cases linearOffset (writeCircular 0 s.params.indexUpdateOffset s) <;> rfl
    · rfl

theorem execSpiDone_overlay (ok : Bool) (frame : BitVec 16) :
    execSpiDone ok frame (overlay φ γ s) = mapNext (overlay φ γ) (execSpiDone ok frame s) := by
  have hlatch (t : State) : latchFrame Config.absDecode (overlay φ γ t) = overlay φ γ (latchFrame Config.absDecode t) := by
    have hdec : Config.absDecode ((overlay φ γ t).cfg.mode.toNat % 256) (readSpiRx (overlay φ γ t)) =
      Config.absDecode (t.cfg.mode.toNat % 256) (readSpiRx t) := rfl
    rw [latchFrame, latchFrame, hdec]
    split
    · rfl
    · rfl
  have hrel : releaseSpi frame (overlay φ γ s) = overlay φ γ (releaseSpi frame s) := rfl
  have hfly : (overlay φ γ s).status = s.status := rfl
  have habs : isAbs (overlay φ γ s).params.nAbs (overlay φ γ s).cfg.mode = isAbs s.params.nAbs s.cfg.mode := rfl
  rw [execSpiDone, execSpiDone, spiCompletion, spiCompletion, hfly, habs, hrel, hlatch]
  split
  · rfl
  · split
    · rfl
    · split
      · rfl
      · rfl

theorem execUpdatePllGains_overlay :
    execUpdatePllGains (overlay φ γ s) = mapNext (overlay φ γ) (execUpdatePllGains s) := by
  have hg : gainsGate (overlay φ γ s) = gainsGate s := rfl
  have hu : unstableGain (overlay φ γ s) = unstableGain s := rfl
  rw [execUpdatePllGains, execUpdatePllGains, hg, hu]
  split
  · rfl
  · split
    · rfl
    · rfl

theorem raiseAll_overlay (mask : BitVec 8) (ks : List FaultKind) (s : State) :
    raiseAll mask ks (overlay φ γ s) = overlay φ γ (raiseAll mask ks s) := by
  induction ks generalizing s with
  | nil => rfl
  | cons k rest ih =>
    rw [raiseAll, raiseAll, ← ih]
    split
    · rfl
    · rfl

theorem execRegRead_overlay (idx : BitVec 8) :
    execRegRead idx (overlay φ γ s) = mapNext (overlay φ γ) (execRegRead idx s) := by
  have hcontent (r : Reg) : regContent r (overlay φ γ s) = regContent r s := by cases r <;> rfl
  have hvalue (r : Reg) : regValue r (overlay φ γ s) = regValue r s := by
    rw [regValue, regValue, hcontent]
    rfl
  rw [execRegRead, execRegRead]
  split
  · rfl
  · rw [hvalue]
    rfl

/-- Every operation but REG_WRITE commutes with the overlay, where the ports agree that it reads and, for the two operations
that ask for it, the mode's bit. -/
theorem exec_overlay {i : Instr} (hp : PortsAgree i s (φ s.ports) s.ports)
    (hm : i.op = .setCircularCount ∨ i.op = .indexPulse → (γ s.written).mode = s.written.mode)
    (hi : i.op ≠ .regWrite) : exec i (overlay φ γ s) = mapNext (overlay φ γ) (exec i s) := by
  cases i with
  | sample => exact execSample_overlay hp
  | update => exact execUpdate_overlay hp
  | indexPulse => exact execIndexPulse_overlay (hm (.inr rfl))
  | spiDone ok frame => exact execSpiDone_overlay ok frame
  | setCircularCount n u => exact execSetCircularCount_overlay n u (hm (.inl rfl))
  | updatePllGains => exact execUpdatePllGains_overlay
  | raiseError mask =>
    simp only [exec, execRaiseError, raiseAll_overlay]
    rfl
  | armIndex =>
    have hsub : (overlay φ γ s).ports.subscribeOk = s.ports.subscribeOk := hp
    simp only [exec, execArmIndex, hsub]
    rfl
  | regRead idx => exact execRegRead_overlay idx
  | regWrite => exact absurd rfl hi
  | countUp | countDown | setLinearCount | clearErrors | disarmIndex | hallcalStart | hallcalStop => rfl

end

/-! Outcomes alike under a view of the next state. -/

theorem sameUpTo_mapNext {f g : State → State} (h : ∀ t, f (g t) = f t) (x : Host.Outcome State Fault Refusal) :
    SameUpTo f (mapNext g x) x := by
  cases x with
  | next t => exact h t
  | fault r => cases r
  | refused r => rfl

theorem execRegWrite_sameUpTo {f : State → State} {idx : BitVec 8} {v : Word} {a b : State}
    (h : ∀ r, f (finish .ok (writeContent r v a)) = f (finish .ok (writeContent r v b))) :
    SameUpTo f (execRegWrite idx v a) (execRegWrite idx v b) := by
  unfold execRegWrite
  split
  · rfl
  · split
    · rfl
    · split
      · rfl
      · exact h _

theorem portsAgree_refl (i : Instr) (s : State) (p : Ports) : PortsAgree i s p p := by
  cases i with
  | sample => exact ⟨fun _ => ⟨rfl, rfl⟩, fun _ => rfl⟩
  | update => exact fun _ => ⟨rfl, fun _ => ⟨rfl, rfl⟩⟩
  | armIndex => rfl
  | _ => trivial

/-- Settles O57: the state with the one reading is the state with the other under an overlay of the ports. -/
theorem portsReadOnlyWhereNamed : Obligations.PortsReadOnlyWhereNamed := by
  intro i s p q hp
  by_cases hi : i.op = .regWrite
  · cases i with
    | regWrite idx v => exact execRegWrite_sameUpTo fun r => by cases r <;> rfl
    | _ => cases hi
  · have hx := exec_overlay (φ := fun _ => p) (γ := id) (s := { s with ports := q }) hp (fun _ => rfl) hi
    have hs : overlay (fun _ => p) id { s with ports := q } = { s with ports := p } := rfl
    rw [← hs, hx]
    exact sameUpTo_mapNext (by intro t; rfl) _

/-- Settles O58: the state with the other bits is the state under an overlay of them; REG_WRITE, which sets a bit, sets it
under the overlay. -/
theorem writtenBitsUnseen : Obligations.WrittenBitsUnseen := by
  intro i s w
  by_cases hi : i.op = .regWrite
  · cases i with
    | regWrite idx v =>
      exact ⟨execRegWrite_sameUpTo fun r => by cases r <;> rfl,
        fun _ _ => execRegWrite_sameUpTo fun r => by cases r <;> rfl⟩
    | _ => cases hi
  · have hp := portsAgree_refl i s s.ports
    refine ⟨?_, fun hcirc hindex => ?_⟩
    · have hx := exec_overlay (φ := id) (γ := fun x => { w with mode := x.mode }) hp (fun _ => rfl) hi
      rw [show withWritten w s = overlay id (fun x => { w with mode := x.mode }) s from rfl, hx]
      exact sameUpTo_mapNext (by intro t; rfl) _
    · have hx := exec_overlay (φ := id) (γ := fun _ => w) hp (fun h => (h.elim hcirc hindex).elim) hi
      rw [show { s with written := w } = overlay id (fun _ => w) s from rfl, hx]
      exact sameUpTo_mapNext (by intro t; rfl) _

end Sys2Proof.Machine
end

section
/-! PROOFS. The SPI buffers and the implementation parameters (20_memory.md section 1, R72, R73): only a completing SPI_DONE
writes a buffer, the receive one. -/

namespace Sys2Proof.Machine

/-- Both SPI buffers and the implementation parameters are as they were. -/
structure BuffersKept (s t : State) : Prop where
  tx : t.spi.tx = s.spi.tx
  params : t.params = s.params
  rx : t.spi.rx = s.spi.rx

/-- A register's content lies in neither buffer and in no parameter (10_state.md R22). -/
theorem writeContent_buffersKept (r : Reg) (v : Word) (s : State) : BuffersKept s (writeContent r v s) := by
  cases r <;> exact ⟨rfl, rfl, rfl⟩

/-- Every operation but SPI_DONE keeps both buffers and the parameters. -/
theorem exec_buffersKept {i : Instr} {s t : State} (h : exec i s = .next t) (hi : i.op ≠ .spiDone) :
    BuffersKept s t := by
  cases i with
  | spiDone => exact absurd rfl hi
  | sample =>
    obtain ⟨_, _, _, _, _, _, _, ht⟩ := sampleIn_frame s.mode s
    cases h
    rw [ht]
    exact ⟨rfl, rfl, rfl⟩
  | update =>
    rcases execUpdate_frame h with ⟨_, _, _, _, rfl⟩ | ⟨_, _, _, _, _, rfl, -⟩
    · exact ⟨rfl, rfl, rfl⟩
    · exact ⟨rfl, rfl, rfl⟩
  | indexPulse =>
    obtain ⟨_, _, _, _, _, _, _, _, _, _, rfl⟩ := execIndexPulse_frame h
    exact ⟨rfl, rfl, rfl⟩
  | setCircularCount =>
    obtain ⟨-, rfl⟩ := execSetCircularCount_next h
    exact ⟨rfl, rfl, rfl⟩
  | updatePllGains =>
    obtain ⟨_, _, _, _, _, _, rfl⟩ := execUpdatePllGains_frame h
    exact ⟨rfl, rfl, rfl⟩
  | raiseError =>
    cases h
    rw [raiseAll_frame]
    exact ⟨rfl, rfl, rfl⟩
  | regRead =>
    obtain ⟨_, rfl⟩ := execRegRead_frame h
    exact ⟨rfl, rfl, rfl⟩
  | regWrite =>
    obtain ⟨r, -, -, -, rfl⟩ := execRegWrite_cases h
    obtain ⟨htx, hparams, hrx⟩ := writeContent_buffersKept r _ s
    exact ⟨htx, hparams, hrx⟩
  | countUp | countDown | setLinearCount | clearErrors | armIndex | disarmIndex | hallcalStart | hallcalStop =>
    cases h
    exact ⟨rfl, rfl, rfl⟩

/-- A SPI_DONE has a next state only while a transaction is in flight (44_abs_spi.md R202). -/
theorem spiInflight_of_execSpiDone {ok : Bool} {frame : BitVec 16} {s t : State}
    (h : execSpiDone ok frame s = .next t) : s.status.spiInflight = true := by
  unfold execSpiDone spiCompletion at h
  split at h
  · cases h
  · rename_i hfly
    simpa using hfly

/-- Settles O55: SPI_DONE leaves its frame in the receive buffer, and every other operation keeps both buffers. -/
theorem buffersAndParametersFixed : Obligations.BuffersAndParametersFixed := by
  intro i s t h
  by_cases hi : i.op = .spiDone
  · cases i with
    | spiDone ok frame =>
      have hfly := spiInflight_of_execSpiDone h
      obtain ⟨_, _, _, rfl⟩ := execSpiDone_frame h
      exact ⟨rfl, rfl, fun _ => ⟨hfly, ok, rfl⟩⟩
    | _ => cases hi
  · obtain ⟨htx, hparams, hrx⟩ := exec_buffersKept h hi
    exact ⟨htx, hparams, fun hne => absurd hrx hne⟩

end Sys2Proof.Machine
end

section
/-! PROOFS. The operation word (30_encoding.md R101 to R107). The word and its fields determine each other, and so do a row
and its code; an instruction is its row together with fields in the row's format. Decoding and encoding are then inverse,
and a row's match and mask, read field by field, state the row's code and format. -/

namespace Sys2Proof

/-! The word and its fields (R101). -/

/-- The fields fill the word without overlap. -/
theorem Fields.toWord_toNat (x : Fields) :
    x.toWord.toNat =
      x.op.toNat + 2 ^ 8 * x.idx.toNat + 2 ^ 16 * x.f.toNat + 2 ^ 17 * x.rsv.toNat + 2 ^ 32 * x.d.toNat := by
  have hf : x.f.toNat < 2 := x.f.toNat_lt
  rw [Fields.toWord, BitVec.toNat_ofNat, Nat.mod_eq_of_lt]
  omega

@[simp] theorem Fields.toWord_ofWord (w : BitVec 64) : (Fields.ofWord w).toWord = w := by
  apply BitVec.eq_of_toNat_eq
  rw [Fields.toWord_toNat]
  simp only [Fields.ofWord, BitVec.extractLsb'_toNat, BitVec.getLsbD, Nat.toNat_testBit, Nat.shiftRight_eq_div_pow]
  omega

@[simp] theorem Fields.ofWord_toWord (x : Fields) : Fields.ofWord x.toWord = x := by
  have hx := x.toWord_toNat
  have hf : x.f.toNat < 2 := x.f.toNat_lt
  have hflag : x.toWord.getLsbD 16 = x.f := by
    have hbit : x.toWord.toNat / 2 ^ 16 % 2 = x.f.toNat := by omega
    rw [BitVec.getLsbD, Nat.testBit_eq_decide_div_mod_eq, hbit]
    cases x.f <;> rfl
  have hslice (start len : Nat) (v : BitVec len) (h : x.toWord.toNat / 2 ^ start % 2 ^ len = v.toNat) :
      x.toWord.extractLsb' start len = v := by
    apply BitVec.eq_of_toNat_eq
    rw [BitVec.extractLsb'_toNat, Nat.shiftRight_eq_div_pow, h]
  rw [Fields.ofWord, hslice 0 8 x.op (by omega), hslice 8 8 x.idx (by omega), hflag,
    hslice 17 15 x.rsv (by omega), hslice 32 32 x.d (by omega)]

theorem Fields.ofWord_inj {w v : BitVec 64} : Fields.ofWord w = Fields.ofWord v ↔ w = v :=
  (Function.LeftInverse.injective Fields.toWord_ofWord).eq_iff

/-- A conjunction of words is taken field by field. -/
theorem Fields.ofWord_and (w v : BitVec 64) :
    Fields.ofWord (w &&& v) =
      { op := (Fields.ofWord w).op &&& (Fields.ofWord v).op, idx := (Fields.ofWord w).idx &&& (Fields.ofWord v).idx
        f := (Fields.ofWord w).f && (Fields.ofWord v).f, rsv := (Fields.ofWord w).rsv &&& (Fields.ofWord v).rsv
        d := (Fields.ofWord w).d &&& (Fields.ofWord v).d } := by
  simp only [Fields.ofWord, BitVec.extractLsb'_and, BitVec.getLsbD_and]

/-! The rows: code and format (R102 to R104). -/

/-- No two rows share a code, and `ofCode` finds the row of each. -/
theorem Op.ofCode_eq_some_iff {c : BitVec 8} {o : Op} : Op.ofCode c = some o ↔ c = o.code := by
  constructor
  · intro h
    unfold Op.ofCode at h
    split at h <;> cases h <;> exact BitVec.eq_of_toNat_eq ‹_›
  · rintro rfl
    cases o <;> rfl

/-- The bits outside a row's format, field by field (R102, R103). -/
theorem Op.unusedZero_iff {o : Op} {x : Fields} :
    o.unusedZero x = true ↔
      (o.usesIdx = true ∨ x.idx = 0) ∧ (o.usesFlag = true ∨ x.f = false) ∧ x.rsv = 0 ∧ x.d.toNat < 2 ^ o.dataBits := by
  simp [Op.unusedZero, and_assoc]

@[simp] theorem Op.build_op (o : Op) (x : Fields) : (o.build x).op = o := by
  cases o <;> rfl

/-- A word decodes to an instruction exactly when its fields have the code of the instruction's row, are in its format and
give the operands (R103). -/
theorem decode_eq_ok_iff {w : BitVec 64} {i : Instr} :
    decode w = .ok i ↔
      (Fields.ofWord w).op = i.op.code ∧ i.op.unusedZero (Fields.ofWord w) = true ∧ i.op.build (Fields.ofWord w) = i := by
  constructor
  · intro h
    unfold decode at h
    split at h
    · cases h
    · rename_i o ho
      split at h
      · rename_i hz
        cases h
        rw [Op.build_op]
        exact ⟨Op.ofCode_eq_some_iff.mp ho, hz, rfl⟩
      · cases h
  · rintro ⟨hop, hz, hi⟩
    rw [decode, Op.ofCode_eq_some_iff.mpr hop]
    simp only [hz, if_true, hi]

/-! An instruction and its fields (R106). -/

@[simp] theorem Instr.fields_op (i : Instr) : i.fields.op = i.op.code := by
  cases i <;> rfl

/-- An instruction's fields are in its row's format. -/
theorem Instr.unusedZero_fields (i : Instr) : i.op.unusedZero i.fields = true := by
  rw [Op.unusedZero_iff]
  cases i with
  | spiDone ok frame =>
    refine ⟨.inr rfl, .inl rfl, rfl, ?_⟩
    rw [Instr.fields, BitVec.toNat_setWidth_of_le (by decide)]
    exact frame.isLt
  | raiseError mask =>
    refine ⟨.inr rfl, .inr rfl, rfl, ?_⟩
    rw [Instr.fields, BitVec.toNat_setWidth_of_le (by decide)]
    exact mask.isLt
  | setLinearCount n => exact ⟨.inr rfl, .inr rfl, rfl, n.isLt⟩
  | setCircularCount n u => exact ⟨.inr rfl, .inl rfl, rfl, n.isLt⟩
  | regRead idx => exact ⟨.inl rfl, .inr rfl, rfl, Nat.zero_lt_one⟩
  | regWrite idx value => exact ⟨.inl rfl, .inr rfl, rfl, value.isLt⟩
  | _ => exact ⟨.inr rfl, .inr rfl, rfl, Nat.zero_lt_one⟩

/-- Widening an operand and cutting it back to its width keeps it. -/
theorem setWidth_cut_of_le {n k : Nat} (v : BitVec k) (h : k ≤ n) : (v.setWidth n).setWidth k = v := by
  rw [BitVec.setWidth_setWidth_of_le _ h, BitVec.setWidth_eq]

/-- Cutting data that fits the low `k` bits to those bits and widening it back keeps it. -/
theorem setWidth_widen_of_lt {n k : Nat} {d : BitVec n} (h : d.toNat < 2 ^ k) : (d.setWidth k).setWidth n = d := by
  apply BitVec.eq_of_toNat_eq
  rw [BitVec.toNat_setWidth, BitVec.toNat_setWidth, Nat.mod_eq_of_lt h, Nat.mod_eq_of_lt d.isLt]

/-- An instruction's operands are read back from its fields. -/
theorem Instr.build_fields (i : Instr) : i.op.build i.fields = i := by
  cases i with
  | spiDone ok frame => exact congrArg (Instr.spiDone ok) (setWidth_cut_of_le frame (by decide))
  | raiseError mask => exact congrArg Instr.raiseError (setWidth_cut_of_le mask (by decide))
  | _ => rfl

/-- Fields with a row's code and in its format are those of the instruction they give: no bit is dropped (R102, R106). -/
theorem Op.fields_build {o : Op} {x : Fields} (hop : x.op = o.code) (hz : o.unusedZero x = true) :
    (o.build x).fields = x := by
  obtain ⟨op, idx, f, rsv, d⟩ := x
  obtain ⟨hidx, hf, hrsv, hd⟩ := Op.unusedZero_iff.mp hz
  obtain rfl : op = o.code := hop
  obtain rfl : rsv = 0 := hrsv
  cases o with
  | setLinearCount =>
    obtain rfl : idx = 0 := hidx.resolve_left (by decide)
    obtain rfl : f = false := hf.resolve_left (by decide)
    rfl
  | setCircularCount =>
    obtain rfl : idx = 0 := hidx.resolve_left (by decide)
    rfl
  | spiDone =>
    obtain rfl : idx = 0 := hidx.resolve_left (by decide)
    exact congrArg (Fields.mk _ 0 f 0) (setWidth_widen_of_lt hd)
  | raiseError =>
    obtain rfl : idx = 0 := hidx.resolve_left (by decide)
    obtain rfl : f = false := hf.resolve_left (by decide)
    exact congrArg (Fields.mk _ 0 false 0) (setWidth_widen_of_lt hd)
  | regRead =>
    obtain rfl : f = false := hf.resolve_left (by decide)
    obtain rfl : d = 0 := BitVec.eq_of_toNat_eq (Nat.lt_one_iff.mp hd)
    rfl
  | regWrite =>
    obtain rfl : f = false := hf.resolve_left (by decide)
    rfl
  | _ =>
    obtain rfl : idx = 0 := hidx.resolve_left (by decide)
    obtain rfl : f = false := hf.resolve_left (by decide)
    obtain rfl : d = 0 := BitVec.eq_of_toNat_eq (Nat.lt_one_iff.mp hd)
    rfl

/-- Settles O1: the word's fields are the instruction's, which have its row's code and format and give its operands. -/
theorem decodeEncodeAgree : Obligations.DecodeEncodeAgree := by
  intro i
  rw [decode_eq_ok_iff, encode, Fields.ofWord_toWord]
  exact ⟨i.fields_op, i.unusedZero_fields, i.build_fields⟩

/-- Settles O2: the fields of the decoded instruction are the word's, and the fields determine the word. -/
theorem encodeDecodeAgree : Obligations.EncodeDecodeAgree := by
  intro w i h
  obtain ⟨hop, hz, hi⟩ := decode_eq_ok_iff.mp h
  calc encode i = (i.op.build (Fields.ofWord w)).fields.toWord := by rw [hi, encode]
    _ = (Fields.ofWord w).toWord := by rw [Op.fields_build hop hz]
    _ = w := Fields.toWord_ofWord w

/-! The match and mask table (R105). -/

/-- The fields of a row's mask: a one at `op` and at every bit outside the row's format (R102, R105). -/
def Op.maskFields (o : Op) : Fields :=
  { op := BitVec.allOnes 8, idx := if o.usesIdx then 0 else BitVec.allOnes 8, f := !o.usesFlag
    rsv := BitVec.allOnes 15, d := BitVec.allOnes 32 <<< o.dataBits }

theorem Op.ofWord_mask (o : Op) : Fields.ofWord o.matchMask.2 = o.maskFields := by
  cases o <;> decide

/-- The fields of a row's match: its code, and zeros. -/
theorem Op.ofWord_match (o : Op) :
    Fields.ofWord o.matchMask.1 = { op := o.code, idx := 0, f := false, rsv := 0, d := 0 } := by
  cases o <;> decide

/-- The bits from `k` upwards are zero exactly when the value is below `2 ^ k`. -/
theorem and_allOnes_shiftLeft_eq_zero_iff {n k : Nat} (d : BitVec n) :
    d &&& (BitVec.allOnes n <<< k) = 0 ↔ d.toNat < 2 ^ k := by
  constructor
  · intro h
    refine Nat.lt_pow_two_of_testBit _ fun j hj => ?_
    by_cases hn : j < n
    · have hbit : (d &&& (BitVec.allOnes n <<< k)).getLsbD j = false := by rw [h]; exact BitVec.getLsbD_zero
      change d.getLsbD j = false
      simpa [hn, Nat.not_lt.mpr hj] using hbit
    · exact BitVec.getLsbD_of_ge d j (Nat.le_of_not_lt hn)
  · intro h
    refine BitVec.eq_of_getLsbD_eq fun j hn => ?_
    by_cases hj : j < k
    · simp [hj]
    · have hbit : d.getLsbD j = false :=
        Nat.testBit_lt_two_pow (h.trans_le (Nat.pow_le_pow_right (by decide) (Nat.le_of_not_lt hj)))
      simp [hbit]

/-- A word agrees with a row's match under its mask exactly when it has the row's code and is in its format. -/
theorem Op.and_mask_eq_match_iff (o : Op) (w : BitVec 64) :
    w &&& o.matchMask.2 = o.matchMask.1 ↔
      (Fields.ofWord w).op = o.code ∧ o.unusedZero (Fields.ofWord w) = true := by
  have hidx (v : BitVec 8) : v &&& o.maskFields.idx = 0 ↔ o.usesIdx = true ∨ v = 0 := by
    cases h : o.usesIdx with
    | true => simp [Op.maskFields, h]
    | false => simp only [Op.maskFields, h, Bool.false_eq_true, if_false, BitVec.and_allOnes, false_or]
  have hflag (b : Bool) : (b && o.maskFields.f) = false ↔ o.usesFlag = true ∨ b = false := by
    cases h : o.usesFlag <;> simp [Op.maskFields, h]
  have hop (v : BitVec 8) : v &&& o.maskFields.op = v := BitVec.and_allOnes
  have hrsv (v : BitVec 15) : v &&& o.maskFields.rsv = v := BitVec.and_allOnes
  have hd (v : BitVec 32) : v &&& o.maskFields.d = 0 ↔ v.toNat < 2 ^ o.dataBits :=
    and_allOnes_shiftLeft_eq_zero_iff v
  rw [← Fields.ofWord_inj, Fields.ofWord_and, Op.ofWord_mask, Op.ofWord_match, Fields.mk.injEq, hop, hrsv, hidx, hflag,
    hd, Op.unusedZero_iff]

/-- Settles O3: decoding to a row and agreeing with its match under its mask both say that the word has the row's code and
is in its format. -/
theorem decodeMatchesMaskTable : Obligations.DecodeMatchesMaskTable := by
  intro w o
  rw [Op.and_mask_eq_match_iff]
  constructor
  · rintro ⟨i, hdec, rfl⟩
    obtain ⟨hop, hz, -⟩ := decode_eq_ok_iff.mp hdec
    exact ⟨hop, hz⟩
  · rintro ⟨hop, hz⟩
    refine ⟨o.build (Fields.ofWord w), decode_eq_ok_iff.mpr ?_, Op.build_op o _⟩
    rw [Op.build_op]
    exact ⟨hop, hz, rfl⟩

/-! Reserved words (R107). -/

/-- A request whose word does not decode is refused, whoever presents it. -/
theorem Machine.accept_of_decode_error {r : Machine.Request} {e : DecodeError} (h : decode r.word = .error e) :
    Machine.accept r = .error .reservedWord := by
  rw [Machine.accept, h]

/-- A step whose next request is not accepted is refused for the same reason. -/
theorem Machine.step_of_accept_error {s : Machine.State} {r : Machine.Request} {rest : List Machine.Request}
    {e : Machine.Refusal} (hp : s.pending = r :: rest) (ha : Machine.accept r = .error e) :
    Machine.step s = .refused e := by
  simp only [Machine.step, hp, ha]

/-- Settles O4: a word that decoded would match the row of its instruction. -/
theorem reservedWordsRefused : Obligations.ReservedWordsRefused := by
  intro s r rest hp hno
  cases hdec : decode r.word with
  | error e => exact Machine.step_of_accept_error hp (Machine.accept_of_decode_error hdec)
  | ok i => exact absurd ((decodeMatchesMaskTable r.word i.op).mp ⟨i, hdec, rfl⟩) (hno i.op)

/-- A word that encodes an instruction decodes to it. -/
theorem decode_of_encode_eq {w : BitVec 64} {i : Instr} (h : encode i = w) : decode w = .ok i :=
  h ▸ decodeEncodeAgree i

/-- Settles O5: ten of the words encode their operations; the last two name no row and leave their row's format. -/
theorem decodeOfWrittenWords : Obligations.DecodeOfWrittenWords :=
  ⟨decode_of_encode_eq (by decide), decode_of_encode_eq (by decide), decode_of_encode_eq (by decide),
    decode_of_encode_eq (by decide), decode_of_encode_eq (by decide), decode_of_encode_eq (by decide),
    decode_of_encode_eq (by decide), decode_of_encode_eq (by decide), decode_of_encode_eq (by decide),
    decode_of_encode_eq (by decide), by decide, by decide⟩

end Sys2Proof
end

section
/-! PROOFS. The Sampler (40_sampler.md R130 to R134): SAMPLE answers in every mode, so each of its statements is the branch
that the mode selects. -/

namespace Sys2Proof.Machine

/-- SAMPLE has no gate: the branch is the one of the mode in force, also before `CFG_MODE` is written (R130, log 8). -/
theorem exec_sample_of_mode {s : State} {m : Mode} (h : s.mode = m) : exec .sample s = .next (sampleIn m s) :=
  h ▸ rfl

theorem sampleAbs_of_inflight {s : State} (h : s.status.spiInflight = true) : sampleAbs s = finish .ok s := if_pos h

/-- With no transaction out, the request carries the transmit buffer as it stands, and is in flight where the arbiter accepts
it (R134, 44_abs_spi.md R201, log 3). -/
theorem sampleAbs_of_not_inflight {s : State} (h : s.status.spiInflight = false) :
    sampleAbs s =
      { s with
        status.spiInflight := s.ports.spiAccept
        out := { Outputs.plain .ok with spiRequest := some (spiRequestOf s) } } :=
  if_neg (Bool.eq_false_iff.mp h)

/-- Settles O15: the content of `CFG_MODE` names the mode, and the mode's branch is the state claimed. -/
theorem sampleCapturesRawInputs : Obligations.SampleCapturesRawInputs := by
  refine fun s => ⟨fun h => ?_, fun h => ?_, fun h => ?_⟩
  · exact exec_sample_of_mode ((mode_incremental_iff s).mpr h)
  · exact exec_sample_of_mode ((mode_hall_iff s).mpr h)
  · exact exec_sample_of_mode ((mode_sincos_iff s).mpr h)

/-- Settles O16: every ABS variant takes the same branch, which looks at `spi_inflight` alone. -/
theorem sampleIssuesSpiRequest : Obligations.SampleIssuesSpiRequest := by
  intro s v hv
  have hexec : exec .sample s = .next (sampleAbs s) := exec_sample_of_mode ((mode_abs_iff s v).mpr hv)
  rw [hexec]
  refine ⟨fun h => ?_, fun h => ?_⟩
  · rw [sampleAbs_of_inflight h]; rfl
  · rw [sampleAbs_of_not_inflight h]; rfl

end Sys2Proof.Machine
end

section
/-! PROOFS. The counters' operations (41_tracker.md R152, R154) and the corrected count that a rebase with the offset's shift
leaves as it was. -/

namespace Sys2Proof.Machine

/-- Settles O18: the operation has no gate, so it is `writeLinear` in every state. -/
theorem setLinearCountResult : Obligations.SetLinearCountResult :=
  fun n s => ⟨finish .ok (writeLinear n s), rfl, rfl, rfl, BitVec.toNat_setWidth 16 n, rfl⟩

theorem execSetCircularCount_of_legal (n : BitVec 32) (u : Bool) {s : State} (h : CprLegal s) :
    exec (.setCircularCount n u) s = .next (finish .ok (writeCircular n.toInt u s)) := by
  simp only [exec, execSetCircularCount, circularGate_of_legal h]

theorem circularCount_toInt (n : Int) {s : State} (h : CprLegal s) :
    (wrap32 (circularCount n s)).toInt = circularCount n s :=
  wrap32_mod_toInt n s.cfg.cpr h.positive

/-- The shift of the offset follows the shift of the count, both as 32-bit words (R154). -/
theorem shiftedOffset_eq (new : Int) (s : State) :
    shiftedOffset new s = s.cfg.phaseOffset + (wrap32 new - s.est.countInCpr) := by
  rw [shiftedOffset, wrap32_add, sub_eq_add_neg, BitVec.ofInt_add, BitVec.ofInt_neg, BitVec.ofInt_toInt, wrap32,
    BitVec.sub_eq_add_neg]

/-- Settles O19: the gate is the legality of `CFG_CPR`; past it, the count is a residue that its register holds exactly. -/
theorem setCircularCountResult : Obligations.SetCircularCountResult := by
  refine ⟨fun n u s hcpr => ?_, fun n u s h => ?_⟩
  · have hgate := circularGate_of_illegal (s := s) fun h => absurd h.positive (not_lt.mpr hcpr)
    simp only [exec, execSetCircularCount, hgate]
  · obtain ⟨hlow, hhigh⟩ := writeCircular_countInCpr n.toInt u h
    have hcount := circularCount_toInt n.toInt h
    refine ⟨_, execSetCircularCount_of_legal n u h, hlow, hhigh, ?_, ?_, ?_, rfl⟩
    · rw [finish_est, writeCircular_est, hcount]
      exact Int.emod_eq_zero_of_dvd Int.dvd_self_sub_emod
    · rw [finish_cfg, writeCircular_cfg, finish_est, writeCircular_est, ← shiftedOffset_eq]
    · rw [finish_est, writeCircular_est, hcount]

theorem correctedCount_eq (s : State) : correctedCount s = f32OfWord (s.est.countInCpr - s.cfg.phaseOffset) := by
  rw [correctedCount, wrap32_sub]

/-- A rebase that shifts the offset moves both terms of the corrected count by the same word (R154). -/
theorem writeCircular_shift_continuous (n : Int) (s : State) :
    (writeCircular n true s).est.countInCpr - (writeCircular n true s).cfg.phaseOffset =
      s.est.countInCpr - s.cfg.phaseOffset := by
  rw [writeCircular_est, writeCircular_cfg, if_pos rfl, shiftedOffset_eq]
  ring

/-- Settles O20: the count and the offset move together in `writeCircular`, and nothing else that either operation does
touches them. -/
theorem correctedCountContinuous : Obligations.CorrectedCountContinuous := by
  intro i s t h hi
  suffices hsub : t.est.countInCpr - t.cfg.phaseOffset = s.est.countInCpr - s.cfg.phaseOffset by
    exact ⟨hsub, by rw [correctedCount_eq, correctedCount_eq, hsub]⟩
  rcases hi with ⟨n, rfl⟩ | ⟨rfl, hupd⟩
  · obtain ⟨-, rfl⟩ := execSetCircularCount_next h
    exact writeCircular_shift_continuous n.toInt s
  · rcases execIndexPulse_cases h with ⟨rfl, -⟩ | ⟨-, -, -, u, hu, rfl⟩
    · rfl
    · rw [hupd] at hu
      obtain ⟨a, b, c, rfl⟩ := linearOffset_frame hu
      exact writeCircular_shift_continuous 0 s

end Sys2Proof.Machine
end

section
/-! PROOFS. The counters after a complete UPDATE (41_tracker.md R148, R149) and the four early exits (R147). -/

namespace Sys2Proof.Machine

/-! The counters. -/

/-- What step 1 hands over decides both counters: nothing after step 2 writes them (41_tracker.md R148, R149). -/
theorem execUpdate_counts {s t u : State} {d : Int} {l : Option Word} (h : execUpdate s = .next t)
    (hm : stepOne s = .moved d l u) :
    UpdateLegal s ∧ t.out = Outputs.plain .ok ∧ t.est.shadowCount = u.est.shadowCount + BitVec.ofInt 32 d ∧
      t.est.countInCpr = nextCount d l u := by
  obtain ⟨hgate, ⟨v, hv, -⟩ | ⟨d', l', u', hm', hrun⟩⟩ := execUpdate_cases h
  · rw [hm] at hv; cases hv
  · rw [hm] at hm'
    cases hm'
    obtain ⟨hsup, -, -⟩ := stepOne_latch hm
    obtain ⟨a, b, ha, hb, rfl⟩ := runObserver_next hrun
    obtain ⟨c, e, -, htrack, rfl⟩ := estimate_track ha
    obtain ⟨hshadow, hcount, -⟩ := track_frame htrack
    refine ⟨(updateLegal_iff s).mpr ⟨hgate, hsup⟩, rfl, ?_⟩
    rw [← wrap32_add, finish_est, validityFlags_est]
    rcases emitPhase_ok hb with ⟨-, rfl⟩ | ⟨-, ph, -, rfl⟩
    · exact ⟨hshadow, hcount⟩
    · exact ⟨hshadow, hcount⟩

/-- Where nothing is latched, `COUNT_IN_CPR` moves by the delta modulo `cpr` (41_tracker.md R148). -/
theorem nextCount_none_toInt (d : Int) {s : State} (h : 0 < s.cfg.cpr.toInt) :
    (nextCount d none s).toInt = (s.est.countInCpr.toInt + d) % s.cfg.cpr.toInt :=
  wrap32_mod_toInt _ _ h

/-- `sext_16` is a representative modulo 2^16 in `[-2^15, 2^15)` (00_scope.md R12). -/
theorem sext16_spec (a : Int) : -32768 ≤ sext16 a ∧ sext16 a < 32768 ∧ (sext16 a - a) % 65536 = 0 := by
  rw [sext16, BitVec.toInt_ofInt, Int.bmod_def]
  norm_num
  split <;> omega

/-- A 32-bit counter moved by the 16-bit difference to a sample has the sample as its low half (41_tracker.md R143). -/
theorem low16_add_sext16 (w : Word) (c : BitVec 16) :
    low16 (w + BitVec.ofInt 32 (sext16 ((c.toNat : Int) - ((low16 w).toNat : Int)))) = c := by
  obtain ⟨-, -, hcongr⟩ := sext16_spec ((c.toNat : Int) - ((low16 w).toNat : Int))
  generalize sext16 _ = d at *
  apply BitVec.eq_of_toNat_eq
  have hc := c.isLt
  simp only [low16, BitVec.toNat_setWidth, BitVec.toNat_add, BitVec.toNat_ofInt] at *
  omega

/-- Settles O34: step 1 gives the 16-bit difference and latches nothing, and both counters move by it. -/
theorem updateIncrementalCounts : Obligations.UpdateIncrementalCounts := by
  intro s t h hmode
  have hm : stepOne s = .moved (incrementalDelta s) none s := by
    simp only [stepOne, (mode_incremental_iff s).mpr hmode]
  obtain ⟨hlegal, hout, hshadow, hcount⟩ := execUpdate_counts h hm
  obtain ⟨hlow, hhigh, hcongr⟩ := sext16_spec ((s.raw.timCntSample.toNat : Int) - ((low16 s.est.shadowCount).toNat : Int))
  refine ⟨by rw [hout]; rfl, ?_, incrementalDelta s, hlow, hhigh, hcongr, hshadow, ?_⟩
  · rw [hshadow]
    exact low16_add_sext16 _ _
  · rw [hcount, nextCount_none_toInt _ hlegal.cprPositive]

/-- Moving by a representative of the distance to a count of `[0, n)` arrives at that count. -/
theorem add_emod_of_centeredOf {d c old n : Int} (hd : CenteredOf d (c - old) n) (h0 : 0 ≤ c) (hn : c < n) :
    (old + d) % n = c := by
  obtain ⟨hcongr, -, -⟩ := hd
  have hdvd : n ∣ c - (old + d) := by
    rw [show c - (old + d) = c - old - d by ring]
    exact Int.dvd_of_emod_eq_zero hcongr
  calc (old + d) % n = c % n := Int.modEq_iff_dvd.mpr hdvd
    _ = c := Int.emod_eq_of_lt h0 hn

/-- Settles O39: step 1 gives the shorter way to the position and latches nothing, so the count arrives there. -/
theorem updateSincosCounts : Obligations.UpdateSincosCounts := by
  intro s t h hmode
  have hm : stepOne s = .moved (sincosDelta s) none s := by
    simp only [stepOne, (mode_sincos_iff s).mpr hmode]
  obtain ⟨hlegal, hout, hshadow, hcount⟩ := execUpdate_counts h hm
  have hpos := hlegal.cprPositive
  have hlow : 0 ≤ sincosCount s.raw.sincosS s.raw.sincosC s.cfg.cpr.toInt := Int.emod_nonneg _ hpos.ne'
  have hhigh : sincosCount s.raw.sincosS s.raw.sincosC s.cfg.cpr.toInt < s.cfg.cpr.toInt := Int.emod_lt_of_pos _ hpos
  have hdelta := centered_spec
    (sincosCount s.raw.sincosS s.raw.sincosC s.cfg.cpr.toInt - s.est.countInCpr.toInt) s.cfg.cpr.toInt hpos
  refine ⟨by rw [hout]; rfl, _, sincosDelta s, rfl, hlow, hhigh, hdelta, hshadow, ?_⟩
  rw [hcount, nextCount_none_toInt _ hpos]
  exact add_emod_of_centeredOf hdelta hlow hhigh

/-! The early exits. -/

/-- A transition is ambiguous where it is neither none, nor one step up, nor one step down (43_hall.md R195). -/
theorem edgeCross_ambiguous {last : Int} {h : Fin 6} (hx : edgeCross last h = .ambiguous) :
    2 ≤ (h.val - last) % 6 ∧ (h.val - last) % 6 ≤ 4 := by
  unfold edgeCross modPos at hx
  split at hx
  · cases hx
  · split at hx
    · cases hx
    · split at hx
      · cases hx
      · omega

theorem sampleEdge_ambiguous {h : Fin 6} {s u : State} (hs : sampleEdge h s = .ambiguous u) :
    u = ambiguousTransition s ∧ 0 ≤ s.hallCal.lastHallCnt.toInt ∧
      2 ≤ (h.val - s.hallCal.lastHallCnt.toInt) % 6 ∧ (h.val - s.hallCal.lastHallCnt.toInt) % 6 ≤ 4 := by
  unfold sampleEdge at hs
  split at hs
  · cases hs
  · rename_i hlast
    split at hs
    · rename_i hx
      cases hs
      exact ⟨rfl, not_lt.mp hlast, edgeCross_ambiguous hx⟩
    · cases hs
    · split at hs
      · split at hs <;> cases hs
      · cases hs

/-- The two exits of step 1 in Hall mode: an illegal state that is not ignored, or an ambiguous transition while
calibrating (43_hall.md R192, R195). -/
theorem hallStep_failed {s u : State} (hs : hallStep s = .failed u) :
    (s.cfg.flags.ignoreIllegalHallState = false ∧ hallCount (s.ports.hallSnapshot ^^^ s.cfg.hallPolarity) = none ∧
        u = raiseFault .illegalHallState (loadHall s)) ∨
      (s.status.calibrateHallPhase = true ∧ u = ambiguousTransition (loadHall s) ∧
        ∃ h : Fin 6, hallCount (s.ports.hallSnapshot ^^^ s.cfg.hallPolarity) = some h ∧
          0 ≤ s.hallCal.lastHallCnt.toInt ∧ 2 ≤ (h.val - s.hallCal.lastHallCnt.toInt) % 6 ∧
          (h.val - s.hallCal.lastHallCnt.toInt) % 6 ≤ 4) := by
  unfold hallStep at hs
  split at hs
  · rename_i hnone
    unfold illegalHall at hs
    split at hs
    · cases hs
    · rename_i hignore
      cases hs
      exact .inl ⟨Bool.eq_false_iff.mpr hignore, hnone, rfl⟩
  · rename_i h hsome
    unfold legalHall at hs
    split at hs
    · rename_i hcal
      split at hs
      · cases hs
      · rename_i v hv
        cases hs
        obtain ⟨hu, hrange⟩ := sampleEdge_ambiguous hv
        exact .inr ⟨hcal, hu, h, hsome, hrange⟩
      · cases hs
    · cases hs

/-- The one exit of step 1 in an ABS mode: a miss with the rate above its threshold (44_abs_spi.md R205). -/
theorem absStep_failed {s u : State} (hs : absStep s = .failed u) :
    s.status.absSpiPosUpdated = false ∧ (countMiss s).spi.errorRate.gt F32.fivePercent = true ∧
      u = raiseFault .absSpiComFail (countMiss s) := by
  rcases absStep_cases s with ⟨-, hc⟩ | ⟨hupd, hrate, hc⟩ | ⟨-, -, hc⟩ <;> rw [hc] at hs <;> cases hs
  exact ⟨hupd, hrate, rfl⟩

/-- An UPDATE that reports FAIL ended in step 1. -/
theorem execUpdate_fail {s t : State} (h : execUpdate s = .next t) (hfail : t.out.result = .fail) :
    ∃ u, stepOne s = .failed u ∧ t = finish .fail u := by
  obtain ⟨-, hu | ⟨d, l, u, -, hrun⟩⟩ := execUpdate_cases h
  · exact hu
  · obtain ⟨a, b, -, -, rfl⟩ := runObserver_next hrun
    cases hfail

/-- Settles O42: UPDATE ends early in step 1 only, and each mode's exit is a raised fault on a state in which nothing but
`HALL_STATE`, the sampling flag and the error rate has moved. -/
theorem updateEarlyExits : Obligations.UpdateEarlyExits := by
  intro s t h hfail
  obtain ⟨u, hu, rfl⟩ := execUpdate_fail h hfail
  have hframe : u.est = s.est ∧ u.cfg = s.cfg ∧ u.hwcnt = s.hwcnt ∧ u.status.posValid = false ∧
      u.status.velValid = false := by
    obtain ⟨k, hs, b, rate, rfl⟩ := stepOne_failed hu
    exact ⟨rfl, rfl, rfl, rfl, rfl⟩
  obtain ⟨hest, hcfg, hhw, hpos, hvel⟩ := hframe
  refine ⟨hest, hcfg, hhw, hpos, hvel, ?_⟩
  unfold stepOne at hu
  split at hu
  case h_1 => cases hu
  case h_2 hmode =>
    have hmode := (mode_hall_iff s).mp hmode
    rcases hallStep_failed hu with ⟨hignore, hnone, rfl⟩ | ⟨hcal, rfl, hambiguous⟩
    · exact .inr (.inl ⟨hmode, hignore, hnone, rfl, rfl⟩)
    · exact .inr (.inr (.inl ⟨hmode, hcal, hambiguous, rfl, rfl, rfl⟩))
  case h_3 => cases hu
  case h_4 v hmode =>
    obtain ⟨hupd, hrate, rfl⟩ := absStep_failed hu
    exact .inr (.inr (.inr ⟨⟨v, (mode_abs_iff s v).mp hmode⟩, hupd, rfl, hrate, rfl⟩))
  case h_5 hmode =>
    cases hu
    exact .inl ⟨(mode_unsupported_iff s).mp hmode, rfl⟩

end Sys2Proof.Machine
end

section
/-! PROOFS. Steps 2 to 7 of UPDATE as formulas (41_tracker.md R148, R149; 42_pll.md R162 to R176): each step's value once the
values that it needs exist, then UPDATE as their composition. -/

namespace Sys2Proof.Machine

/-- UPDATE on a legal configuration whose step 1 gives a delta is the observer on the moved counters (41_tracker.md R140). -/
theorem execUpdate_of_moved {s t : State} {d : Int} {l : Option Word} (h : UpdateLegal s)
    (hm : stepOne s = .moved d l t) : execUpdate s = runObserver d (applyDelta d l t) := by
  obtain ⟨hgate, -⟩ := (updateLegal_iff s).mp h
  simp only [execUpdate, hgate, hm]

/-- Step 2 in words: the counters move by the delta modulo 2^32 and modulo `cpr`, the second forced to the latch. -/
theorem applyDelta_eq (d : Int) (l : Option Word) (s : State) :
    applyDelta d l s =
      { s with
        est.shadowCount := s.est.shadowCount + BitVec.ofInt 32 d
        est.countInCpr := l.getD (BitVec.ofInt 32 ((s.est.countInCpr.toInt + d) % s.cfg.cpr.toInt)) } := by
  rw [applyDelta, wrap32_add]
  cases l <;> rfl

/-- The interpolation as R171 writes it, one line per case. -/
theorem interpolate_eq (dt : F32) (snap enable : Bool) (d : Int) (e : Est) :
    interpolate dt (snap || !enable) d e =
      if snap = true ∨ enable = false then F32.half
      else if 0 < d then F32.zero
      else if d < 0 then F32.one
      else if (e.interpolation.add (dt.mul e.velEstimate)).ge F32.zero = false then F32.zero
      else if (e.interpolation.add (dt.mul e.velEstimate)).gt F32.one then F32.one
      else e.interpolation.add (dt.mul e.velEstimate) := by
  simp only [interpolate, clampUnit, Bool.or_eq_true, Bool.not_eq_true']

theorem circularPosition_of_frac {cprf range last frac : F32} {e : Est}
    (hfrac : ((e.posCpr.sub last).div cprf).wrapPm F32.one = some frac) :
    circularPosition cprf range last e = some ((e.posCircular.add frac).fmodPos range) := by
  unfold circularPosition
  rw [hfrac]

/-- Steps 4 and 5 have a value once the circular position has one (R169 to R171). -/
theorem observe_of_circularPosition {t cprf range last pc : F32} {enable : Bool} {d : Int} {e : Est}
    (hpc : circularPosition cprf range last (snapVelocity t e) = some pc) :
    observe t cprf range last enable d e =
      some
        { snapVelocity t e with
          posCircular := pc
          interpolation := interpolate t (snaps t e || !enable) d (snapVelocity t e) } := by
  unfold observe
  rw [hpc]

theorem modelledCounts_of_some {m mc : Int} {s : State}
    (hm : encoderModel s (predict s.plat.period s.est).posEstimate = some m)
    (hmc : encoderModel s (predict s.plat.period s.est).posCpr = some mc) : modelledCounts s = some (m, mc) := by
  unfold modelledCounts
  rw [hm, hmc]

/-- The registers after the correction and the wrap (R162 to R168), with `m` the modelled linear count and `ec` the wrapped
error. -/
def correctedEst (m : Int) (ec : F32) (s : State) : Est :=
  correct s.plat.period (cprFloat s) (linearError (predict s.plat.period s.est) m) ec (predict s.plat.period s.est)

theorem track_of_wrappedError {d m mc : Int} {s : State} {ec : F32}
    (hec : wrappedError (cprFloat s) (predict s.plat.period s.est) mc = some ec) :
    track d m mc s =
      observe s.plat.period (cprFloat s) s.plat.circRange s.est.posCpr s.cfg.flags.enablePhaseInterpolation d
        (correctedEst m ec s) := by
  unfold track
  rw [hec]
  rfl

/-- Steps 3 to 5 once the modelled counts, the wrapped error and the fraction have values (R162 to R171). -/
theorem estimate_of_some {d m mc : Int} {s : State} {ec frac : F32}
    (hm : encoderModel s (predict s.plat.period s.est).posEstimate = some m)
    (hmc : encoderModel s (predict s.plat.period s.est).posCpr = some mc)
    (hec : wrappedError (cprFloat s) (predict s.plat.period s.est) mc = some ec)
    (hfrac : (((correctedEst m ec s).posCpr.sub s.est.posCpr).div (cprFloat s)).wrapPm F32.one = some frac) :
    estimate d s = .ok
      { s with
        est :=
          { snapVelocity s.plat.period (correctedEst m ec s) with
            posCircular := (s.est.posCircular.add frac).fmodPos s.plat.circRange
            interpolation := interpolate s.plat.period
              (snaps s.plat.period (correctedEst m ec s) || !s.cfg.flags.enablePhaseInterpolation) d
              (snapVelocity s.plat.period (correctedEst m ec s)) } } := by
  have hpc := circularPosition_of_frac (range := s.plat.circRange)
    (e := snapVelocity s.plat.period (correctedEst m ec s)) hfrac
  unfold estimate
  rw [modelledCounts_of_some hm hmc]
  dsimp only
  rw [track_of_wrappedError hec, observe_of_circularPosition hpc]
  rfl

/-- Step 6 as one update: both outputs move while `IS_READY = 1`, where the raw phase has to be finite (R174). -/
theorem emitPhase_of_wrapped {s : State} {phase : F32}
    (hphase : s.isReady = true → (rawPhase s).wrapPm F32.twoPi = some phase) :
    emitPhase s = .ok
      { s with
        est.phase := if s.isReady then phase else s.est.phase
        est.phaseVel := if s.isReady then rawPhaseVel s else s.est.phaseVel } := by
  unfold emitPhase
  by_cases hready : s.isReady = true
  · simp only [if_pos hready]
    rw [hphase hready]
  · simp only [if_neg hready]

theorem runObserver_of_emitPhase {d : Int} {s a b : State} (ha : estimate d s = .ok a) (hb : emitPhase a = .ok b) :
    runObserver d s = .next (finish .ok (validityFlags b)) := by
  unfold runObserver
  rw [ha]
  dsimp only
  rw [hb]

/-- Steps 6 and 7 once the estimator has a value: the phase outputs move while ready, the validity flags follow `ERROR`
(R174 to R176). -/
theorem runObserver_of_estimate {d : Int} {s a : State} {phase : F32} (ha : estimate d s = .ok a)
    (hphase : a.isReady = true → (rawPhase a).wrapPm F32.twoPi = some phase) :
    runObserver d s = .next
      { a with
        est.phase := if a.isReady then phase else a.est.phase
        est.phaseVel := if a.isReady then rawPhaseVel a else a.est.phaseVel
        status.posValid := a.status.posValid || decide (a.error = 0)
        status.velValid := a.status.velValid || decide (a.error = 0)
        out := Outputs.plain .ok } := by
  rw [runObserver_of_emitPhase ha (emitPhase_of_wrapped hphase), validityFlags_eq]
  rfl

/-- Step 1 of UPDATE with a delta leaves the configuration, the platform parameters, `IS_READY` and the implementation
parameters alone. -/
theorem stepOne_moved_keeps {s t : State} {d : Int} {l : Option Word} (h : stepOne s = .moved d l t) :
    t.cfg = s.cfg ∧ t.plat = s.plat ∧ t.isReady = s.isReady ∧ t.params = s.params := by
  obtain ⟨_, _, _, _, rfl⟩ := stepOne_moved h
  exact ⟨rfl, rfl, rfl, rfl⟩

/-- The encoder model is a function of the configuration and the implementation parameters alone. -/
theorem encoderModel_congr {s t : State} (hcfg : t.cfg = s.cfg) (hparams : t.params = s.params) (p : F32) :
    encoderModel s p = encoderModel t p := by
  rw [encoderModel, encoderModel, State.mode, State.mode, hcfg, hparams]

/-- Settles O31: step 1 keeps every register that the observer reads as a parameter, so each hypothesis is the value that
one step of the observer needs. -/
theorem updateObserverResult : Obligations.UpdateObserverResult := by
  intro s t delta latch m mc ec frac phase hlegal hstep
  obtain ⟨hcfg, hplat, hready, hparams⟩ := stepOne_moved_keeps hstep
  rw [exec, execUpdate_of_moved hlegal hstep, applyDelta_eq, ← hcfg, ← hplat, ← hready]
  intro period cprf shadow count tv pos1 cpr1 err pos2 cpr2 vel2 snap vel3 x interpolation erpc corr dir ph pv
    hm hmc hec hfrac hphase
  rw [encoderModel_congr hcfg hparams] at hm hmc
  have hest := estimate_of_some (d := delta) (s := { t with est.shadowCount := shadow, est.countInCpr := count })
    (ec := ec) (frac := frac) hm hmc hec hfrac
  rw [interpolate_eq] at hest
  refine runObserver_of_estimate hest fun h => ?_
  rw [rawPhase, correctedCount_eq]
  exact hphase h

end Sys2Proof.Machine
end

section
/-! PROOFS. Magnitudes (00_scope.md R13): patterns order as the sizes of their values, so a bound on the operands' patterns gives
one on the result's, by one inequality between exact values. A bound below the infinity's pattern keeps a result finite. -/

namespace Sys2Proof

/-- The pattern of `2 ^ k`. -/
def F32.powMag (k : Nat) : Nat := (127 + k) * 2 ^ 23

theorem F32.unitsOfMag_powMag (k : Nat) : F32.unitsOfMag (F32.powMag k) = 2 ^ (149 + k) := by
  rw [F32.powMag, show (127 + k) * 2 ^ 23 = (126 + k) * 2 ^ 23 + 2 ^ 23 by ring,
    F32.unitsOfMag_normal _ _ le_rfl (by decide), ← pow_add]
  congr 1
  omega

theorem F32.units_natAbs (x : F32) : x.units.natAbs = F32.unitsOfMag x.mag := by
  rw [F32.units]; split <;> simp

theorem F32.mag_le_of_natAbs_le {x : F32} {m : Nat} (h : x.units.natAbs ≤ F32.unitsOfMag m) : x.mag ≤ m := by
  rwa [F32.units_natAbs, F32.unitsOfMag_le_iff] at h

theorem F32.natAbs_le_of_mag_le {x : F32} {m : Nat} (h : x.mag ≤ m) : x.units.natAbs ≤ F32.unitsOfMag m := by
  rwa [F32.units_natAbs, F32.unitsOfMag_le_iff]

theorem F32.mag_le_of_units_le {x y : F32} (h0 : 0 ≤ x.units) (h : x.units ≤ y.units) : x.mag ≤ y.mag :=
  F32.mag_le_of_natAbs_le (by rw [← F32.units_natAbs]; omega)

theorem F32.isFinite_of_mag_le {x : F32} {m : Nat} (h : x.mag ≤ m) (hm : m < F32.infMag) : x.isFinite = true :=
  decide_eq_true (lt_of_le_of_lt h hm)

theorem F32.isInf_eq_false {x : F32} (h : x.isFinite = true) : x.isInf = false :=
  decide_eq_false (of_decide_eq_true h : x.mag < F32.infMag).ne

theorem F32.ofUnits_mag (k : Int) (d : Nat) : (F32.ofUnits k d).mag = F32.roundMag k.natAbs d :=
  F32.ofMag_mag _ _ (F32.roundMag_lt _ _)

/-! The operators. -/

theorem F32.add_mag_le {x y : F32} {a b c : Nat} (hx : x.mag ≤ a) (hy : y.mag ≤ b) (ha : a < F32.infMag)
    (hb : b < F32.infMag) (h : F32.unitsOfMag a + F32.unitsOfMag b ≤ F32.unitsOfMag c) : (x.add y).mag ≤ c := by
  have hxf := F32.isFinite_of_mag_le hx ha
  have hyf := F32.isFinite_of_mag_le hy hb
  have hxu := F32.natAbs_le_of_mag_le hx
  have hyu := F32.natAbs_le_of_mag_le hy
  rw [F32.add, F32.isFinite_not_isNaN x hxf, F32.isFinite_not_isNaN y hyf, F32.isInf_eq_false hxf, F32.isInf_eq_false hyf,
    if_neg (by decide), if_neg (by decide), if_neg (by decide)]
  split
  · rw [F32.ofMag_mag _ _ (by decide)]
    exact Nat.zero_le _
  · rw [F32.ofUnits_mag]
    exact F32.roundMag_le _ _ _ Nat.one_pos (by omega)

theorem F32.sub_mag_le {x y : F32} {a b c : Nat} (hx : x.mag ≤ a) (hy : y.mag ≤ b) (ha : a < F32.infMag)
    (hb : b < F32.infMag) (h : F32.unitsOfMag a + F32.unitsOfMag b ≤ F32.unitsOfMag c) : (x.sub y).mag ≤ c :=
  F32.add_mag_le hx (by rwa [F32.negate_mag]) ha hb h

theorem F32.mul_mag_le {x y : F32} {a b c : Nat} (hx : x.mag ≤ a) (hy : y.mag ≤ b) (ha : a < F32.infMag)
    (hb : b < F32.infMag) (h : F32.unitsOfMag a * F32.unitsOfMag b ≤ F32.unitsOfMag c * F32.one149) :
    (x.mul y).mag ≤ c := by
  have hxf := F32.isFinite_of_mag_le hx ha
  have hyf := F32.isFinite_of_mag_le hy hb
  rw [F32.mul, F32.isFinite_not_isNaN x hxf, F32.isFinite_not_isNaN y hyf, F32.isInf_eq_false hxf, F32.isInf_eq_false hyf,
    if_neg (by decide), if_neg (by decide), F32.ofMag_mag _ _ (F32.roundMag_lt _ _)]
  refine F32.roundMag_le _ _ _ (by decide) (le_trans ?_ h)
  exact Nat.mul_le_mul (F32.natAbs_le_of_mag_le hx) (F32.natAbs_le_of_mag_le hy)

/-- Division by a number of at least one does not raise a magnitude. -/
theorem F32.div_mag_le {x y : F32} {a : Nat} (hx : x.mag ≤ a) (ha : a < F32.infMag) (hy : F32.one.mag ≤ y.mag)
    (hyf : y.isFinite = true) : (x.div y).mag ≤ a := by
  have hxf := F32.isFinite_of_mag_le hx ha
  have hone : F32.unitsOfMag F32.one.mag = F32.one149 := by decide
  have hyu : F32.one149 ≤ y.units.natAbs := by
    rw [F32.units_natAbs, ← hone]
    exact (F32.unitsOfMag_le_iff _ _).mpr hy
  have hne : ¬ y.mag = 0 := (lt_of_lt_of_le (by decide) hy).ne'
  rw [F32.div, F32.isFinite_not_isNaN x hxf, F32.isFinite_not_isNaN y hyf, F32.isInf_eq_false hxf, F32.isInf_eq_false hyf,
    if_neg (by decide), if_neg (by decide), if_neg (by decide), if_neg hne, F32.ofMag_mag _ _ (F32.roundMag_lt _ _)]
  refine F32.roundMag_le _ _ _ (lt_of_lt_of_le (by decide) hyu) ?_
  exact Nat.mul_le_mul (F32.natAbs_le_of_mag_le hx) hyu

theorem F32.ofInt_mag_le {i : Int} {k : Nat} (h : i.natAbs ≤ 2 ^ k) : (F32.ofInt i).mag ≤ F32.powMag k := by
  rw [F32.ofInt, F32.ofUnits_mag]
  refine F32.roundMag_le _ _ _ Nat.one_pos ?_
  rw [F32.unitsOfMag_powMag, Int.natAbs_mul, Int.natAbs_natCast, mul_one, pow_add, mul_comm]
  exact Nat.mul_le_mul_left _ h

theorem F32.abs_mag (x : F32) : x.abs.mag = x.mag := by
  rw [F32.mag, F32.abs, BitVec.setWidth_and, show (0x7FFFFFFF : BitVec 32).setWidth 31 = BitVec.allOnes 31 by decide,
    BitVec.and_allOnes, F32.mag]

theorem F32.abs_isNeg (x : F32) : x.abs.isNeg = false := by
  rw [F32.isNeg, F32.abs, BitVec.msb_and, show (0x7FFFFFFF : BitVec 32).msb = false by decide, Bool.and_false]

/-- `abs(x) <= b` bounds the pattern. -/
theorem F32.mag_le_of_abs_le {x b : F32} (h : x.abs.le b = true) : x.mag ≤ b.mag := by
  obtain ⟨-, -, hle⟩ := (F32.le_iff _ _).mp h
  have h0 : 0 ≤ x.abs.units := by rw [F32.units, F32.abs_isNeg]; simp
  rw [← F32.abs_mag x]
  exact F32.mag_le_of_units_le h0 hle

theorem F32.unitsOfMag_pos {m : Nat} (h : m ≠ 0) : 0 < F32.unitsOfMag m := by
  have hzero : F32.unitsOfMag 0 = 0 := by decide
  rw [← hzero]
  exact F32.unitsOfMag_strictMono (Nat.pos_of_ne_zero h)

/-- A number that is not below zero is a zero or carries no sign. -/
theorem F32.mag_eq_zero_or_isNeg {x : F32} (h : 0 ≤ x.units) : x.mag = 0 ∨ x.isNeg = false := by
  by_contra hc
  obtain ⟨hmag, hneg⟩ := not_or.mp hc
  have hpos := F32.unitsOfMag_pos hmag
  rw [F32.units, if_pos (Bool.of_not_eq_false hneg)] at h
  omega

theorem F32.ofMag_units_nonneg (m : Nat) (h : m < 2 ^ 31) : 0 ≤ (F32.ofMag false m).units := by
  rw [F32.ofMag_units _ _ h]
  exact Int.natCast_nonneg _

/-- A product of two numbers that are not below zero is a NaN or not below zero. -/
theorem F32.mul_units_nonneg {x y : F32} (hx : 0 ≤ x.units) (hy : 0 ≤ y.units) : 0 ≤ (x.mul y).units := by
  by_cases hzero : x.mag = 0 ∨ y.mag = 0
  · have hprod : x.units.natAbs * y.units.natAbs = 0 := by
      rw [F32.units_natAbs, F32.units_natAbs]
      rcases hzero with h | h <;> rw [h, show F32.unitsOfMag 0 = 0 by decide] <;> simp
    rw [F32.mul, hprod, if_pos hzero, show F32.roundMag 0 F32.one149 = 0 by decide]
    generalize (x.isNeg != y.isNeg) = sign
    split
    · decide
    · split
      · decide
      · revert sign; decide
  · have hsign : (x.isNeg != y.isNeg) = false := by
      obtain ⟨hxm, hym⟩ := not_or.mp hzero
      rw [(F32.mag_eq_zero_or_isNeg hx).resolve_left hxm, (F32.mag_eq_zero_or_isNeg hy).resolve_left hym]
      rfl
    rw [F32.mul, hsign, if_neg hzero]
    split
    · decide
    · split
      · decide
      · exact F32.ofMag_units_nonneg _ (F32.roundMag_lt _ _)

/-! `fmod_pos`, `wrap_pm` and `floor_int`. -/

theorem F32.fmodPos_mag_le {x y : F32} (hx : x.isFinite = true) (hy : y.isFinite = true) (hp : F32.zero.lt y = true) :
    (x.fmodPos y).mag ≤ y.mag := by
  obtain ⟨hlow, hhigh⟩ := F32.fmodPos_range x y (F32.fmodPos_isNaN x y hx hy hp)
  obtain ⟨-, -, h0⟩ := (F32.le_iff _ _).mp hlow
  obtain ⟨-, -, h1⟩ := (F32.lt_iff _ _).mp hhigh
  rw [F32.zero_units] at h0
  exact F32.mag_le_of_units_le h0 h1.le

theorem F32.wrapPm_exists {x y : F32} (hx : x.isFinite = true) (hy : y.isFinite = true) (hp : F32.zero.lt y = true) :
    ∃ r, x.wrapPm y = some r := by
  unfold F32.wrapPm
  rw [if_pos (by rw [hx, hy, hp]; rfl)]
  split
  · exact ⟨_, rfl⟩
  · exact ⟨_, rfl⟩

/-- A wrapped value is no larger than its modulus, where that is at least one. -/
theorem F32.wrapPm_mag_le {x y r : F32} (hy : F32.one.le y = true) (h : x.wrapPm y = some r) : r.mag ≤ y.mag := by
  obtain ⟨hfin, -, -⟩ := F32.wrapPm_cases x y r h
  have hhalf := F32.div_two_units y hfin (le_trans (by decide) (F32.mag_ge_of_one_le y hy))
  obtain ⟨hlow, hhigh⟩ := wrapPmInHalfOpenRange x y r hy h
  obtain ⟨-, -, hl⟩ := (F32.lt_iff _ _).mp hlow
  obtain ⟨-, -, hh⟩ := (F32.le_iff _ _).mp hhigh
  rw [F32.negate_units] at hl
  exact F32.mag_le_of_natAbs_le (by rw [← F32.units_natAbs]; omega)

/-- A number of magnitude at most `3 * 2^29` has a floor in 32 bits, within the same bound. -/
theorem F32.floorInt_exists {x : F32} (h : x.mag ≤ F32.powMag 30 + 2 ^ 22) :
    ∃ c, x.floorInt = some c ∧ -1610612736 ≤ c ∧ c ≤ 1610612736 := by
  have hu := F32.natAbs_le_of_mag_le h
  have hval : F32.unitsOfMag (F32.powMag 30 + 2 ^ 22) = 1610612736 * F32.one149 := by decide
  have hlow : -1610612736 ≤ x.units / (F32.one149 : Int) := by
    rw [Int.le_ediv_iff_mul_le (by decide)]
    omega
  have hhigh : x.units / (F32.one149 : Int) ≤ 1610612736 := by
    refine Int.ediv_le_of_le_mul (by decide) ?_
    omega
  refine ⟨_, ?_, hlow, hhigh⟩
  rw [F32.floorInt, if_pos (F32.isFinite_of_mag_le h (by decide)), within32, if_pos ⟨by omega, by omega⟩]

end Sys2Proof
end

section
/-! PROOFS. UPDATE completes on bounded data (41_tracker.md R140, 42_pll.md R174, R177): every value that reaches `floor_int`
stays inside 32 bits and every value that reaches `wrap_pm` stays finite. -/

namespace Sys2Proof.Machine

/-- The bounds under which no value of steps 3 to 6 is too large: the sizes that UPDATE's formulas combine. -/
structure BoundedData (s : State) : Prop where
  cprPositive : 0 < s.cfg.cpr.toInt
  cprSmall : s.cfg.cpr.toInt ≤ 16777216
  period : s.plat.period.mag ≤ F32.powMag 0
  gain : (s.plat.period.mul s.est.kp).mag ≤ F32.powMag 0
  posCpr : s.est.posCpr.mag ≤ F32.powMag 24
  position : s.est.posEstimate.mag ≤ F32.powMag 30
  velocity : s.est.velEstimate.mag ≤ F32.powMag 29
  offset : s.cfg.phaseOffsetFloat.mag ≤ F32.powMag 30

theorem toInt_natAbs_le (w : Word) : w.toInt.natAbs ≤ 2 ^ 31 := by
  have hlow := BitVec.le_toInt w
  have hhigh := BitVec.toInt_lt (x := w)
  omega

theorem f32OfWord_mag_le (w : Word) : (f32OfWord w).mag ≤ F32.powMag 31 := F32.ofInt_mag_le (toInt_natAbs_le w)

/-! `cprf`. -/

theorem cprFloat_mag_le {s : State} (h : BoundedData s) : (cprFloat s).mag ≤ F32.powMag 24 := by
  have hpos := h.cprPositive
  have hsmall := h.cprSmall
  exact F32.ofInt_mag_le (by omega)

theorem cprFloat_isFinite {s : State} (h : BoundedData s) : (cprFloat s).isFinite = true :=
  F32.isFinite_of_mag_le (cprFloat_mag_le h) (by decide)

theorem one_le_cprFloat {s : State} (h : BoundedData s) : F32.one.le (cprFloat s) = true := by
  have hone : F32.one = F32.ofInt 1 := by decide
  rw [hone]
  exact (F32.le_iff _ _).mpr ⟨F32.ofInt_isNaN _, F32.ofInt_isNaN _, F32.ofInt_mono _ _ h.cprPositive⟩

theorem cprFloat_positive {s : State} (h : BoundedData s) : F32.zero.lt (cprFloat s) = true := by
  obtain ⟨-, hnan, hle⟩ := (F32.le_iff _ _).mp (one_le_cprFloat h)
  have hone : F32.zero.units < F32.one.units := by decide
  exact (F32.lt_iff _ _).mpr ⟨F32.zero_isNaN, hnan, by omega⟩

/-! The modelled counts. -/

theorem step_mag_le {s : State} (h : BoundedData s) : (s.plat.period.mul s.est.velEstimate).mag ≤ F32.powMag 29 :=
  F32.mul_mag_le h.period h.velocity (by decide) (by decide) (by decide)

theorem predict_posEstimate_mag_le {s : State} (h : BoundedData s) :
    (predict s.plat.period s.est).posEstimate.mag ≤ F32.powMag 30 + 2 ^ 22 :=
  F32.add_mag_le h.position (step_mag_le h) (by decide) (by decide) (by decide)

theorem predict_posCpr_mag_le {s : State} (h : BoundedData s) :
    (predict s.plat.period s.est).posCpr.mag ≤ F32.powMag 30 + 2 ^ 22 :=
  F32.add_mag_le h.posCpr (step_mag_le h) (by decide) (by decide) (by decide)

/-- Every `hall_model` stays within one count of the floor (42_pll.md R166). -/
theorem hallModel_near (kind : HallModelKind) (p : F32) (edge : Six F32) (c : Int) :
    c - 1 ≤ hallModel kind p edge c ∧ hallModel kind p edge c ≤ c + 1 := by
  cases kind with
  | default =>
    unfold hallModel hallModelDefault
    dsimp only
    split
    · omega
    · split <;> omega
  | other =>
    unfold hallModel hallModelOther clampOne
    dsimp only
    split <;> omega

/-- A position whose floor exists has a modelled count within one of it (42_pll.md R164). -/
theorem encoderModel_near (s : State) {p : F32} {c : Int} (h : p.floorInt = some c) :
    ∃ m, encoderModel s p = some m ∧ c - 1 ≤ m ∧ m ≤ c + 1 := by
  have hnear := hallModel_near s.params.hallModel p s.cfg.hallEdge c
  unfold encoderModel
  rw [h]
  refine ⟨_, rfl, ?_⟩
  split
  · exact hnear
  · omega

theorem encoderModel_exists (s : State) {p : F32} (h : p.mag ≤ F32.powMag 30 + 2 ^ 22) :
    ∃ m, encoderModel s p = some m ∧ m.natAbs ≤ 2 ^ 31 := by
  obtain ⟨c, hc, hlow, hhigh⟩ := F32.floorInt_exists h
  obtain ⟨m, hm, hnear⟩ := encoderModel_near s hc
  exact ⟨m, hm, by omega⟩

/-! The wrapped error and the fraction of a revolution. -/

theorem wrappedError_exists {s : State} (h : BoundedData s) {mc : Int} (hmc : mc.natAbs ≤ 2 ^ 31) :
    ∃ ec, wrappedError (cprFloat s) (predict s.plat.period s.est) mc = some ec ∧ ec.mag ≤ F32.powMag 24 := by
  have hcount : (predict s.plat.period s.est).countInCpr.toInt.natAbs ≤ 2 ^ 31 := toInt_natAbs_le _
  have hmag : (F32.ofInt ((predict s.plat.period s.est).countInCpr.toInt - mc)).mag ≤ F32.powMag 32 :=
    F32.ofInt_mag_le (by omega)
  obtain ⟨ec, hec⟩ := F32.wrapPm_exists (F32.isFinite_of_mag_le hmag (by decide)) (cprFloat_isFinite h)
    (cprFloat_positive h)
  exact ⟨ec, hec, (F32.wrapPm_mag_le (one_le_cprFloat h) hec).trans (cprFloat_mag_le h)⟩

theorem correctedEst_posCpr_mag_le {s : State} (h : BoundedData s) (m : Int) {ec : F32} (hec : ec.mag ≤ F32.powMag 24) :
    (correctedEst m ec s).posCpr.mag ≤ F32.powMag 24 := by
  have hterm : ((s.plat.period.mul s.est.kp).mul ec).mag ≤ F32.powMag 24 :=
    F32.mul_mag_le h.gain hec (by decide) (by decide) (by decide)
  have hsum : ((predict s.plat.period s.est).posCpr.add ((s.plat.period.mul s.est.kp).mul ec)).mag ≤ F32.powMag 31 :=
    F32.add_mag_le (predict_posCpr_mag_le h) hterm (by decide) (by decide) (by decide)
  exact (F32.fmodPos_mag_le (F32.isFinite_of_mag_le hsum (by decide)) (cprFloat_isFinite h) (cprFloat_positive h)).trans
    (cprFloat_mag_le h)

theorem fraction_exists {s : State} (h : BoundedData s) (m : Int) {ec : F32} (hec : ec.mag ≤ F32.powMag 24) :
    ∃ frac, (((correctedEst m ec s).posCpr.sub s.est.posCpr).div (cprFloat s)).wrapPm F32.one = some frac := by
  have hdiff : ((correctedEst m ec s).posCpr.sub s.est.posCpr).mag ≤ F32.powMag 25 :=
    F32.sub_mag_le (correctedEst_posCpr_mag_le h m hec) h.posCpr (by decide) (by decide) (by decide)
  have hquot := F32.div_mag_le hdiff (by decide) (F32.mag_ge_of_one_le _ (one_le_cprFloat h)) (cprFloat_isFinite h)
  exact F32.wrapPm_exists (F32.isFinite_of_mag_le hquot (by decide)) (by decide) (by decide)

/-- Steps 3 to 5 complete on bounded data, the interpolation in `[0, 1]`. -/
theorem estimate_completes {s : State} (h : BoundedData s) (d : Int) :
    ∃ e, estimate d s = .ok { s with est := e } ∧ e.interpolation.mag ≤ F32.powMag 0 := by
  obtain ⟨m, hm, -⟩ := encoderModel_exists s (predict_posEstimate_mag_le h)
  obtain ⟨mc, hmc, hmcBound⟩ := encoderModel_exists s (predict_posCpr_mag_le h)
  obtain ⟨ec, hec, hecBound⟩ := wrappedError_exists h hmcBound
  obtain ⟨frac, hfrac⟩ := fraction_exists h m hecBound
  refine ⟨_, estimate_of_some hm hmc hec hfrac, ?_⟩
  obtain ⟨hlow, hhigh⟩ := interpolate_range s.plat.period
    (snaps s.plat.period (correctedEst m ec s) || !s.cfg.flags.enablePhaseInterpolation) d
    (snapVelocity s.plat.period (correctedEst m ec s))
  obtain ⟨-, -, hlow⟩ := (F32.le_iff _ _).mp hlow
  obtain ⟨-, -, hhigh⟩ := (F32.le_iff _ _).mp hhigh
  rw [F32.zero_units] at hlow
  exact F32.mag_le_of_units_le hlow hhigh

/-! The phase. -/

/-- The raw phase of bounded data is finite, whatever the pole pairs, the counts and the direction (42_pll.md R172, R173). -/
theorem rawPhase_isFinite {s : State} (h : BoundedData s) {e : Est} (he : e.interpolation.mag ≤ F32.powMag 0) :
    (rawPhase { s with est := e }).isFinite = true := by
  have hturns : ((f32OfWord s.plat.polePairs).mul F32.twoPi).mag ≤ F32.powMag 34 :=
    F32.mul_mag_le (f32OfWord_mag_le _) (b := F32.powMag 3) (by decide) (by decide) (by decide) (by decide)
  have hradians := F32.div_mag_le hturns (by decide) (F32.mag_ge_of_one_le _ (one_le_cprFloat h)) (cprFloat_isFinite h)
  have hcount : ((correctedCount { s with est := e }).add e.interpolation).mag ≤ F32.powMag 32 :=
    F32.add_mag_le (f32OfWord_mag_le _) he (by decide) (by decide) (by decide)
  have hangle : (((correctedCount { s with est := e }).add e.interpolation).sub s.cfg.phaseOffsetFloat).mag ≤
      F32.powMag 33 := F32.sub_mag_le hcount h.offset (by decide) (by decide) (by decide)
  have hproduct := F32.mul_mag_le (c := F32.powMag 67) hradians hangle (by decide) (by decide) (by decide)
  have hphase := F32.mul_mag_le (c := F32.powMag 98) hproduct (f32OfWord_mag_le s.cfg.direction) (by decide) (by decide)
    (by decide)
  exact F32.isFinite_of_mag_le hphase (by decide)

theorem runObserver_completes {s : State} (h : BoundedData s) (d : Int) :
    ∃ t, runObserver d s = .next t ∧ t.out = Outputs.plain .ok := by
  obtain ⟨e, hest, hint⟩ := estimate_completes h d
  obtain ⟨phase, hphase⟩ := F32.wrapPm_exists (y := F32.twoPi) (rawPhase_isFinite h hint) (by decide) (by decide)
  exact ⟨_, runObserver_of_estimate hest fun _ => hphase, rfl⟩

/-! Step 1. -/

/-- Only 0 and 7 are no Hall states (43_hall.md R191). -/
theorem hallCount_exists {b : BitVec 3} (h0 : b ≠ 0) (h7 : b ≠ 7) : ∃ h, hallCount b = some h := by
  revert b; decide

/-- With no early exit due, step 1 gives a delta in every supported mode. -/
theorem stepOne_completes {s : State} (h : UpdateLegal s)
    (hhall : s.cfg.mode = 1 → s.status.calibrateHallPhase = false ∧
      (s.ports.hallSnapshot ^^^ s.cfg.hallPolarity ≠ 0 ∧ s.ports.hallSnapshot ^^^ s.cfg.hallPolarity ≠ 7))
    (habs : (∃ v, AbsVariant s.params.nAbs s.cfg.mode v) → s.status.absSpiPosUpdated = true) :
    ∃ d l t, stepOne s = .moved d l t := by
  unfold stepOne
  split
  case h_1 => exact ⟨_, _, _, rfl⟩
  case h_2 hmode =>
    obtain ⟨hcal, h0, h7⟩ := hhall ((mode_hall_iff s).mp hmode)
    obtain ⟨k, hk⟩ := hallCount_exists h0 h7
    have hcorrected : hallCount (correctedHall (loadHall s)) = some k := hk
    rw [hallStep, hcorrected]
    dsimp only
    rw [legalHall, loadHall_status, hcal]
    exact ⟨_, _, _, rfl⟩
  case h_3 => exact ⟨_, _, _, rfl⟩
  case h_4 v hmode =>
    rw [absStep, if_pos (habs ⟨v, (mode_abs_iff s v).mp hmode⟩)]
    exact ⟨_, _, _, rfl⟩
  case h_5 hmode => exact absurd h.modeSupported ((mode_unsupported_iff s).mp hmode)

/-- A gain that is not negative keeps the product of period and gain at or above zero, so the test against one bounds its
size. -/
theorem gain_mag_le {period kp : F32} (hperiod : F32.zero.lt period = true) (hkp : F32.zero.le kp = true)
    (h : (period.mul kp).lt F32.one = true) : (period.mul kp).mag ≤ F32.powMag 0 := by
  obtain ⟨-, -, hp⟩ := (F32.lt_iff _ _).mp hperiod
  obtain ⟨-, -, hk⟩ := (F32.le_iff _ _).mp hkp
  obtain ⟨-, -, hlt⟩ := (F32.lt_iff _ _).mp h
  rw [F32.zero_units] at hp hk
  exact F32.mag_le_of_units_le (F32.mul_units_nonneg hp.le hk) hlt.le

/-- Settles O33: step 1 gives a delta, and the counters it moves are none of the registers that the bounds speak of. -/
theorem updateCompletesOnBoundedData : Obligations.UpdateCompletesOnBoundedData := by
  intro s hlegal hcpr hperiod hkp hgain hposLow hposHigh hposition hvelocity hoffset hhall habs
  obtain ⟨d, l, t, hstep⟩ := stepOne_completes hlegal hhall habs
  obtain ⟨-, -, hT⟩ := (F32.lt_iff _ _).mp hlegal.periodPositive
  obtain ⟨-, -, hT1⟩ := (F32.le_iff _ _).mp hperiod
  obtain ⟨-, -, hpos0⟩ := (F32.le_iff _ _).mp hposLow
  obtain ⟨-, -, hpos1⟩ := (F32.lt_iff _ _).mp hposHigh
  rw [F32.zero_units] at hT hpos0
  have hcprMag : (F32.ofInt s.cfg.cpr.toInt).mag ≤ F32.powMag 24 :=
    F32.ofInt_mag_le (by have := hlegal.cprPositive; omega)
  have hdata : BoundedData (applyDelta d l t) := by
    obtain ⟨hs, c, rate, upd, rfl⟩ := stepOne_moved hstep
    exact
      { cprPositive := hlegal.cprPositive
        cprSmall := hcpr
        period := F32.mag_le_of_units_le hT.le hT1
        gain := gain_mag_le hlegal.periodPositive hkp hgain
        posCpr := (F32.mag_le_of_units_le hpos0 hpos1.le).trans hcprMag
        position := F32.mag_le_of_abs_le hposition
        velocity := F32.mag_le_of_abs_le hvelocity
        offset := F32.mag_le_of_abs_le hoffset }
  rw [exec, execUpdate_of_moved hlegal hstep]
  exact runObserver_completes hdata d

end Sys2Proof.Machine
end

section
/-! PROOFS. The Hall encoder model stays near the floor (42_pll.md R166), and UPDATE_PLL_GAINS by its gate and its one test
(R160). -/

namespace Sys2Proof.Machine

/-- Under the default edge table a `hall_model` other than the default is the floor (42_pll.md R166). -/
theorem hallModel_other_defaultHallEdges (p : F32) (c : Int) : hallModel .other p defaultHallEdges c = c := by
  rw [hallModel, hallModelOther, if_pos rfl]

/-- Settles O45: the default function answers the floor or a neighbour of it, any other one is clamped to them. -/
theorem hallModelNearFloor : Obligations.HallModelNearFloor := by
  intro kind p edge c
  obtain ⟨hlow, hhigh⟩ := hallModel_near kind p edge c
  refine ⟨by omega, ?_⟩
  rintro rfl rfl
  exact hallModel_other_defaultHallEdges p c

theorem gainsGate_of_illegal {s : State} (h : ¬ GainsLegal s) : gainsGate s = some .invalidConfig := by
  rw [gainsGate, if_neg fun hok => h ((gainsLegal_iff s).mpr (if_pos hok))]

/-- The fault of UPDATE_PLL_GAINS is raised on the state with the gains already written (42_pll.md R160). -/
theorem execUpdatePllGains_of_unstable {s : State} (h : GainsLegal s) (hgain : unstableGain s = true) :
    execUpdatePllGains s = .next (finish .fail (raiseFault .unstableGain (writeGains s))) := by
  simp only [execUpdatePllGains, (gainsLegal_iff s).mp h, if_pos hgain]

theorem execUpdatePllGains_of_stable {s : State} (h : GainsLegal s) (hgain : unstableGain s = false) :
    execUpdatePllGains s = .next (finish .ok (writeGains s)) := by
  simp only [execUpdatePllGains, (gainsLegal_iff s).mp h, hgain, Bool.false_eq_true, if_false]

/-- Settles O21: the gate refuses exactly an illegal bandwidth or period; past it the test decides between the fault, raised
on the state with the new gains, and that state itself. -/
theorem updatePllGainsResult : Obligations.UpdatePllGainsResult := by
  refine ⟨fun s hillegal => ?_, fun s hlegal => ⟨fun hunstable => ?_, fun hstable => ?_⟩⟩
  · simp only [exec, execUpdatePllGains, gainsGate_of_illegal hillegal]
  · rw [exec, execUpdatePllGains_of_unstable hlegal hunstable, raiseFault, readyAfterFault_eq]
    rfl
  · exact execUpdatePllGains_of_stable hlegal hstable

end Sys2Proof.Machine
end

section
/-! PROOFS. Direction 0 silences the phase (42_pll.md R173, 70_reset_and_hazards.md R317): a product with a zero is a zero or a
NaN, and a zero wraps to `+0.0`. -/

namespace Sys2Proof

/-- A product with zero is a zero of either sign, but for the NaN that a NaN or an infinity gives. -/
theorem F32.mul_zero_mag {x : F32} (h : (x.mul F32.zero).isNaN = false) : (x.mul F32.zero).mag = 0 := by
  unfold F32.mul at h ⊢
  split at h
  · exact absurd h (by decide)
  · split at h
    · rw [if_pos (.inr (by decide))] at h
      exact absurd h (by decide)
    · rename_i hnan hinf
      rw [if_neg hnan, if_neg hinf, F32.ofMag_mag _ _ (F32.roundMag_lt _ _), F32.zero_units, Int.natAbs_zero, Nat.mul_zero]
      decide

/-- A zero of either sign, wrapped into a turn, is `+0.0` (00_scope.md R16). -/
theorem F32.wrapPm_twoPi_of_mag_zero {x : F32} (h : x.mag = 0) : x.wrapPm F32.twoPi = some F32.zero := by
  have hfin : x.isFinite = true := F32.isFinite_of_mag_le h.le (by decide)
  have hunits : x.units = 0 := by
    rw [← Int.natAbs_eq_zero, F32.units_natAbs, h]
    decide
  rw [F32.wrapPm, hfin, hunits]
  decide

namespace Machine

theorem f32OfWord_zero : f32OfWord 0 = F32.zero := by decide

/-- Steps 3 to 5 of UPDATE leave the configuration, `IS_READY` and `ERROR` alone. -/
theorem estimate_keeps {d : Int} {s t : State} (h : estimate d s = .ok t) :
    t.cfg = s.cfg ∧ t.isReady = s.isReady ∧ t.error = s.error := by
  obtain ⟨c, e, -, -, rfl⟩ := estimate_track h
  exact ⟨rfl, rfl, rfl⟩

/-- What a complete UPDATE that began ready gives out: phase and velocity of the state `a` that steps 2 to 5 leave, which has
the configuration that UPDATE began with (42_pll.md R173 to R175). -/
theorem execUpdate_phase {s t : State} (h : execUpdate s = .next t) (hok : t.out.result = .ok)
    (hready : s.isReady = true) :
    t.error = s.error ∧ ∃ a : State, a.cfg = s.cfg ∧ (rawPhase a).wrapPm F32.twoPi = some t.est.phase ∧
      t.est.phaseVel = rawPhaseVel a := by
  obtain ⟨-, ⟨k, hs, b, rate, rfl⟩ | ⟨d, l, u, a, v, hm, he, hp, rfl⟩⟩ := execUpdate_next h
  · cases hok
  · obtain ⟨hs, c, rate, upd, rfl⟩ := stepOne_moved hm
    obtain ⟨hcfg, hkept, herror⟩ := estimate_keeps he
    rw [finish_error, validityFlags_error, finish_est, validityFlags_est]
    rcases emitPhase_ok hp with ⟨hnot, -⟩ | ⟨-, ph, hwrap, rfl⟩
    · rw [hkept, applyDelta_isReady, hready] at hnot
      cases hnot
    · exact ⟨herror, a, hcfg, hwrap, rfl⟩

/-- Settles O44: both outputs are products with direction 0, and the raw phase is finite where UPDATE completes, so its
product is a zero. -/
theorem directionZeroSilencesPhase : Obligations.DirectionZeroSilencesPhase := by
  intro s t h hok hready hdir
  obtain ⟨herror, a, hcfg, hwrap, hvel⟩ := execUpdate_phase h hok hready
  have hfactor : f32OfWord a.cfg.direction = F32.zero := by rw [hcfg, hdir, f32OfWord_zero]
  have hfinite := F32.wrapPm_some_isFinite _ _ _ hwrap
  rw [rawPhase, hfactor] at hwrap hfinite
  rw [rawPhaseVel, hfactor] at hvel
  rw [F32.wrapPm_twoPi_of_mag_zero (F32.mul_zero_mag (F32.isFinite_not_isNaN _ hfinite))] at hwrap
  rw [hvel]
  exact ⟨(Option.some.inj hwrap).symm, F32.mul_zero_mag, herror⟩

end Machine
end Sys2Proof
end

section
/-! PROOFS. Where UPDATE has no value to go on with (42_pll.md R164, R174): `floor_int` and the encoder model as `↔`s, and the
two refusals of the observer. -/

namespace Sys2Proof

theorem within32_eq_some_iff (i c : Int) :
    within32 i = some c ↔ i = c ∧ -2147483648 ≤ c ∧ c < 2147483648 := by
  constructor
  · intro h
    obtain ⟨rfl, hlow, hhigh⟩ := within32_some i c h
    exact ⟨rfl, hlow, hhigh⟩
  · rintro ⟨rfl, hlow, hhigh⟩
    exact if_pos ⟨hlow, hhigh⟩

/-- `floor_int` as R14 defines it: the greatest integer not above a finite number, where it has 32 bits. -/
theorem F32.floorInt_eq_some_iff (p : F32) (n : Int) :
    p.floorInt = some n ↔ p.isFinite = true ∧ n * F32.one149 ≤ p.units ∧ p.units < (n + 1) * F32.one149 ∧
      -2147483648 ≤ n ∧ n < 2147483648 := by
  have hpos : 0 < (F32.one149 : Int) := by decide
  have hfloor : p.units / F32.one149 = n ↔ n * F32.one149 ≤ p.units ∧ p.units < (n + 1) * F32.one149 := by
    rw [← Int.le_ediv_iff_mul_le hpos, ← Int.ediv_lt_iff_lt_mul hpos]
    omega
  unfold F32.floorInt
  split
  · rename_i hfin
    rw [within32_eq_some_iff, hfloor, and_assoc]
    exact (and_iff_right hfin).symm
  · rename_i hinf
    exact iff_of_false nofun fun h => hinf h.1

namespace Machine

/-- The encoder model has a value exactly where `floor_int` has one (42_pll.md R164, log 30). -/
theorem encoderModel_eq_none_iff (s : State) (p : F32) : encoderModel s p = none ↔ p.floorInt = none := by
  unfold encoderModel
  cases p.floorInt with
  | none => exact Iff.rfl
  | some c => exact iff_of_false nofun nofun

/-- Outside Hall mode the encoder model is `floor_int` (42_pll.md R163). -/
theorem encoderModel_of_not_hall {s : State} (p : F32) (h : s.mode ≠ .hall) : encoderModel s p = p.floorInt := by
  unfold encoderModel
  cases p.floorInt with
  | none => rfl
  | some c => exact congrArg some (if_neg h)

theorem modelledCounts_of_none {s : State}
    (h : encoderModel s (predict s.plat.period s.est).posEstimate = none ∨
      encoderModel s (predict s.plat.period s.est).posCpr = none) : modelledCounts s = none := by
  unfold modelledCounts
  rcases h with h | h
  · rw [h]
  · rw [h]
    split <;> rfl

/-- The observer is REFUSED where either predicted position has no modelled count (42_pll.md R164). -/
theorem runObserver_of_modelledCounts_none {s : State} (d : Int) (h : modelledCounts s = none) :
    runObserver d s = .refused .floatToInt := by
  have hest : estimate d s = .error .floatToInt := by
    unfold estimate
    rw [h]
  unfold runObserver
  rw [hest]

theorem emitPhase_of_not_finite {s : State} (hready : s.isReady = true) (h : (rawPhase s).isFinite = false) :
    emitPhase s = .error .notFinite := by
  have hwrap : (rawPhase s).wrapPm F32.twoPi = none := by
    rw [F32.wrapPm, h]
    rfl
  rw [emitPhase, if_pos hready, hwrap]

/-- The observer is REFUSED where it reaches a raw phase that is not finite while ready (42_pll.md R174). -/
theorem runObserver_of_rawPhase_not_finite {d : Int} {s a : State} (ha : estimate d s = .ok a)
    (hready : a.isReady = true) (h : (rawPhase a).isFinite = false) : runObserver d s = .refused .notFinite := by
  unfold runObserver
  rw [ha]
  dsimp only
  rw [emitPhase_of_not_finite hready h]

/-- Settles O32: UPDATE on such a state is the observer on the moved counters, which leave both predicted positions as
they were. -/
theorem updateRefusedWithoutValue : Obligations.UpdateRefusedWithoutValue := by
  refine ⟨F32.floorInt_eq_some_iff, fun s p => ⟨encoderModel_eq_none_iff s p, fun hmode => ?_⟩, ?_⟩
  · exact encoderModel_of_not_hall p fun hhall => hmode ((mode_hall_iff s).mp hhall)
  · intro s t d l hlegal hstep
    obtain ⟨hcfg, hplat, -, hparams⟩ := stepOne_moved_keeps hstep
    rw [exec, execUpdate_of_moved hlegal hstep]
    refine ⟨fun hnone => ?_, fun u hest hready hphase => runObserver_of_rawPhase_not_finite hest hready hphase⟩
    have hmodel := encoderModel_congr (s := s) (t := applyDelta d l t) hcfg hparams
    rw [hmodel, hmodel, ← hplat] at hnone
    exact runObserver_of_modelledCounts_none d (modelledCounts_of_none hnone)

end Machine
end Sys2Proof
end

section
/-! PROOFS. The Hall Decoder (43_hall.md R190 to R195): the lookup, what step 1 gives for a legal and for an illegal state, the
edge sampling, and UPDATE in Hall mode as their consequence. -/

namespace Sys2Proof.Machine

/-! The lookup (R191). -/

theorem hallCount_eq_none_iff (b : BitVec 3) : hallCount b = none ↔ b = 0 ∨ b = 7 := by
  revert b; decide

/-- The inverse of the lookup: the corrected state of a sequence count. -/
def hallStateOf (h : Fin 6) : BitVec 3 :=
  match h with
  | 0 => 1
  | 1 => 3
  | 2 => 2
  | 3 => 6
  | 4 => 4
  | 5 => 5

theorem hallCount_eq_some_iff (b : BitVec 3) (h : Fin 6) : hallCount b = some h ↔ b = hallStateOf h := by
  revert b h; decide

/-- Settles O46: the lookup has an inverse on the six counts and nothing to give for the two other states. -/
theorem hallLookupBijective : Obligations.HallLookupBijective := by
  refine ⟨⟨rfl, rfl, rfl, rfl, rfl, rfl⟩, hallCount_eq_none_iff, fun h => ⟨hallStateOf h, ?_, fun b hb => ?_⟩⟩
  · exact (hallCount_eq_some_iff _ h).mpr rfl
  · exact (hallCount_eq_some_iff b h).mp hb

/-! Which edge a transition crosses (R194). -/

theorem edgeCross_self (h : Fin 6) : edgeCross h.val h = .noEdge := by
  revert h; decide

theorem edgeCross_up {last : Int} {h : Fin 6} (hd : (h.val - last) % 6 = 1) : edgeCross last h = .crossed h :=
  if_pos hd

/-- A step down crosses the edge of the count that it leaves. -/
theorem edgeCross_down {h k : Fin 6} (hd : ((h.val : Int) - k.val) % 6 = 5) : edgeCross k.val h = .crossed k := by
  revert h k; decide

theorem edgeCross_far {last : Int} {h : Fin 6} (hlow : 2 ≤ (h.val - last) % 6) (hhigh : (h.val - last) % 6 ≤ 4) :
    edgeCross last h = .ambiguous := by
  unfold edgeCross modPos
  rw [if_neg (by omega), if_neg (by omega), if_neg (by omega)]

/-! The edge sampling (R194, R195). -/

theorem circularMean_some {n : Nat} {mean sample m : F32} (h : circularMean n mean sample = some m) :
    (n = 0 → sample.wrapPm F32.twoPi = some m) ∧
      (n ≠ 0 → ∃ dd : F32, (sample.sub mean).wrapPm F32.twoPi = some dd ∧
        (mean.add (dd.div (F32.ofInt (n + 1)))).wrapPm F32.twoPi = some m) := by
  unfold circularMean at h
  split at h
  · rename_i h0
    exact ⟨fun _ => h, fun hn => absurd h0 hn⟩
  · rename_i hn
    refine ⟨fun h0 => absurd h0 hn, fun _ => ?_⟩
    split at h
    · cases h
    · rename_i dd hdd
      exact ⟨dd, hdd, h⟩

theorem edgeAveraged_of_averageEdge {k : Fin 6} {sample : F32} {c c' : HallCal}
    (h : averageEdge k sample c = some c') : EdgeAveraged k sample c c' := by
  obtain ⟨m, hm, rfl⟩ := averageEdge_some h
  obtain ⟨hfirst, hnext⟩ := circularMean_some hm
  exact ⟨m, rfl, rfl, hfirst, hnext⟩

/-- A sample that goes on without an average has recorded the count alone. -/
theorem sampleEdge_unaveraged {h : Fin 6} {s t : State} (hs : sampleEdge h s = .goOn t)
    (hno : s.hallCal.lastHallCnt.toInt < 0 ∨ edgeCross s.hallCal.lastHallCnt.toInt h = .noEdge ∨
      s.ports.olPhaseValid = false) : t = recordHall h s := by
  unfold sampleEdge at hs
  split at hs
  · cases hs; rfl
  · rename_i hlast
    split at hs
    · cases hs
    · cases hs; rfl
    · rename_i k hx
      split at hs
      · rename_i hvalid
        rw [hx, hvalid] at hno
        rcases hno with hneg | hnone | hinvalid
        · exact absurd hneg hlast
        · cases hnone
        · cases hinvalid
      · cases hs; rfl

/-- A sample that crosses edge `k` while the electrical phase is valid has averaged slot `k`. -/
theorem sampleEdge_averaged {h k : Fin 6} {s t : State} (hs : sampleEdge h s = .goOn t)
    (hlast : 0 ≤ s.hallCal.lastHallCnt.toInt) (hx : edgeCross s.hallCal.lastHallCnt.toInt h = .crossed k)
    (hvalid : s.ports.olPhaseValid = true) : EdgeAveraged k s.ports.olPhase s.hallCal t.hallCal := by
  rw [sampleEdge, if_neg (not_lt.mpr hlast), hx] at hs
  dsimp only at hs
  rw [if_pos hvalid] at hs
  split at hs
  · cases hs
  · rename_i c hc
    cases hs
    have haveraged : EdgeAveraged k s.ports.olPhase s.hallCal c := edgeAveraged_of_averageEdge hc
    exact haveraged

/-- Every sample that goes on records the count and touches nothing outside the scratch. -/
theorem sampleEdge_records {h : Fin 6} {s t : State} (hs : sampleEdge h s = .goOn t) :
    ∃ c, t = { s with hallCal := c } ∧ c.lastHallCnt = BitVec.ofNat 32 h.val := by
  rcases sampleEdge_cases h s with ⟨c, hc, hlast⟩ | hc | ⟨r, hc⟩ <;> rw [hc] at hs <;> cases hs
  exact ⟨c, rfl, hlast⟩

theorem sampleEdge_of_far {h : Fin 6} {s : State} (hlast : 0 ≤ s.hallCal.lastHallCnt.toInt)
    (hlow : 2 ≤ (h.val - s.hallCal.lastHallCnt.toInt) % 6) (hhigh : (h.val - s.hallCal.lastHallCnt.toInt) % 6 ≤ 4) :
    sampleEdge h s = .ambiguous (ambiguousTransition s) := by
  rw [sampleEdge, if_neg (not_lt.mpr hlast), edgeCross_far hlow hhigh]

/-! Step 1 of UPDATE in Hall mode. -/

theorem stepOne_of_hallCount_none {s : State} (hmode : s.cfg.mode = 1)
    (h : hallCount (s.ports.hallSnapshot ^^^ s.cfg.hallPolarity) = none) : stepOne s = illegalHall (loadHall s) := by
  have hcorrected : hallCount (correctedHall (loadHall s)) = none := h
  simp only [stepOne, (mode_hall_iff s).mpr hmode, hallStep, hcorrected]

theorem stepOne_of_hallCount_some {s : State} {h : Fin 6} (hmode : s.cfg.mode = 1)
    (hh : hallCount (s.ports.hallSnapshot ^^^ s.cfg.hallPolarity) = some h) :
    stepOne s = legalHall h (loadHall s) := by
  have hcorrected : hallCount (correctedHall (loadHall s)) = some h := hh
  simp only [stepOne, (mode_hall_iff s).mpr hmode, hallStep, hcorrected]

/-- A legal state that goes on latches its count, by the shorter way round, and only the sampling moves the scratch. -/
theorem legalHall_moved {h : Fin 6} {s u : State} {d : Int} {l : Option Word} (hm : legalHall h s = .moved d l u) :
    d = centered (h.val - s.est.countInCpr.toInt) 6 ∧ l = some (BitVec.ofNat 32 h.val) ∧
      (∃ c, u = { s with hallCal := c }) ∧ (s.status.calibrateHallPhase = true → sampleEdge h s = .goOn u) := by
  unfold legalHall at hm
  split at hm
  · split at hm
    · rename_i v hv
      obtain ⟨c, rfl, -⟩ := sampleEdge_records hv
      cases hm
      exact ⟨rfl, rfl, ⟨c, rfl⟩, fun _ => hv⟩
    · cases hm
    · cases hm
  · rename_i hcal
    cases hm
    exact ⟨rfl, rfl, ⟨s.hallCal, rfl⟩, fun hcalibrating => absurd hcalibrating hcal⟩

/-! UPDATE in Hall mode. -/

/-- UPDATE on a legal configuration ends with FAIL where step 1 fails (41_tracker.md R147). -/
theorem execUpdate_of_failed {s u : State} (h : UpdateLegal s) (hf : stepOne s = .failed u) :
    execUpdate s = .next (finish .fail u) := by
  obtain ⟨hgate, -⟩ := (updateLegal_iff s).mp h
  simp only [execUpdate, hgate, hf]

/-- An UPDATE that reports OK had a delta from step 1. -/
theorem execUpdate_ok {s t : State} (h : execUpdate s = .next t) (hok : t.out.result = .ok) :
    ∃ d l u, stepOne s = .moved d l u := by
  obtain ⟨-, ⟨u, -, rfl⟩ | ⟨d, l, u, hu, -⟩⟩ := execUpdate_cases h
  · cases hok
  · exact ⟨d, l, u, hu⟩

/-- Steps 2 to 7 of UPDATE leave the raw samples and the scratch as step 1 wrote them. -/
theorem execUpdate_keeps_raw_hallCal {s t u : State} {d : Int} {l : Option Word} (h : execUpdate s = .next t)
    (hm : stepOne s = .moved d l u) : t.raw = u.raw ∧ t.hallCal = u.hallCal := by
  obtain ⟨-, ⟨v, hv, -⟩ | ⟨d', l', u', hm', hrun⟩⟩ := execUpdate_cases h
  · rw [hm] at hv; cases hv
  · rw [hm] at hm'
    cases hm'
    obtain ⟨a, b, ha, hb, rfl⟩ := runObserver_next hrun
    obtain ⟨c, e, -, -, rfl⟩ := estimate_track ha
    rw [finish_raw, validityFlags_raw, finish_hallCal, validityFlags_hallCal]
    rcases emitPhase_ok hb with ⟨-, rfl⟩ | ⟨-, ph, -, rfl⟩
    · exact ⟨rfl, rfl⟩
    · exact ⟨rfl, rfl⟩

/-- Settles O35: step 1 latches the sequence count and gives the centred distance to it; no later step writes either
counter. -/
theorem updateHallCounts : Obligations.UpdateHallCounts := by
  intro s t h hexec hmode hcount hok
  obtain ⟨d, l, u, hm⟩ := execUpdate_ok hexec hok
  obtain ⟨-, -, hshadow, hnext⟩ := execUpdate_counts hexec hm
  obtain ⟨hraw, -⟩ := execUpdate_keeps_raw_hallCal hexec hm
  rw [stepOne_of_hallCount_some hmode hcount] at hm
  obtain ⟨rfl, rfl, ⟨c, rfl⟩, -⟩ := legalHall_moved hm
  refine ⟨by rw [hraw]; rfl, ?_, _, centered_spec _ 6 (by decide), hshadow⟩
  rw [hnext]
  exact latchedHall_toInt h

/-- Settles O36: the scratch is what the sample left, and each clause is one outcome of `edgeCross`. -/
theorem updateHallEdgeSampling : Obligations.UpdateHallEdgeSampling := by
  intro s t h hexec hmode hcal hcount hok
  obtain ⟨d, l, u, hm⟩ := execUpdate_ok hexec hok
  obtain ⟨-, hscratch⟩ := execUpdate_keeps_raw_hallCal hexec hm
  rw [stepOne_of_hallCount_some hmode hcount] at hm
  obtain ⟨-, -, -, hgoOn⟩ := legalHall_moved hm
  have hsample : sampleEdge h (loadHall s) = .goOn u := hgoOn hcal
  rw [hscratch]
  refine ⟨?_, fun hno => ?_, fun hlast hvalid hup => ?_, fun k hk hvalid hdown => ?_⟩
  · obtain ⟨c, rfl, hc⟩ := sampleEdge_records hsample
    rw [hc]
    exact latchedHall_toInt h
  · have hu : u = recordHall h (loadHall s) := by
      refine sampleEdge_unaveraged hsample (hno.imp_right (Or.imp_left fun heq => ?_))
      rw [loadHall_hallCal, heq]
      exact edgeCross_self h
    rw [hu]
    exact ⟨rfl, rfl⟩
  · exact sampleEdge_averaged (s := loadHall s) hsample hlast (edgeCross_up hup) hvalid
  · have hlast : 0 ≤ s.hallCal.lastHallCnt.toInt := by omega
    have hx : edgeCross s.hallCal.lastHallCnt.toInt h = .crossed k := by
      rw [hk]
      exact edgeCross_down hdown
    exact sampleEdge_averaged (s := loadHall s) hsample hlast hx hvalid

/-- Settles O37: without the flag step 1 ends UPDATE with the fault; with it step 1 gives delta 0 and latches nothing, so a
count of the revolution stays where it is. -/
theorem updateIllegalHallState : Obligations.UpdateIllegalHallState := by
  intro s hlegal hmode hillegal
  have hstep := stepOne_of_hallCount_none hmode ((hallCount_eq_none_iff _).mpr hillegal)
  refine ⟨fun hflag => ?_, fun hflag hlow hhigh t hexec => ?_⟩
  · have hfail : stepOne s = .failed (raiseFault .illegalHallState (loadHall s)) := by
      rw [hstep, illegalHall, loadHall_cfg, hflag]
      rfl
    rw [exec, execUpdate_of_failed hlegal hfail, raiseFault, readyAfterFault_eq]
    rfl
  · have hm : stepOne s = .moved 0 none (loadHall s) := by
      rw [hstep, illegalHall, loadHall_cfg, if_pos hflag]
    obtain ⟨-, hout, hshadow, hnext⟩ := execUpdate_counts hexec hm
    obtain ⟨hraw, hscratch⟩ := execUpdate_keeps_raw_hallCal hexec hm
    refine ⟨by rw [hout]; rfl, by rw [hraw]; rfl, ?_, BitVec.eq_of_toInt_eq ?_, hscratch⟩
    · rw [hshadow]
      exact BitVec.add_zero _
    · rw [hnext, nextCount_none_toInt (s := loadHall s) 0 hlegal.cprPositive, loadHall_est, loadHall_cfg, add_zero]
      exact Int.emod_eq_of_lt hlow hhigh

/-- Settles O38: the sample is ambiguous, so step 1 ends UPDATE with the sampling stopped and the fault raised. -/
theorem updateAmbiguousTransition : Obligations.UpdateAmbiguousTransition := by
  intro s h hlegal hmode hcal hcount hlast hlow hhigh
  have hsample : sampleEdge h (loadHall s) = .ambiguous (ambiguousTransition (loadHall s)) :=
    sampleEdge_of_far hlast hlow hhigh
  have hfail : stepOne s = .failed (ambiguousTransition (loadHall s)) := by
    rw [stepOne_of_hallCount_some hmode hcount, legalHall, loadHall_status, if_pos hcal, hsample]
  rw [exec, execUpdate_of_failed hlegal hfail, ambiguousTransition, raiseFault, readyAfterFault_eq]
  rfl

end Sys2Proof.Machine
end

section
/-! PROOFS. The Absolute-SPI Protocol (44_abs_spi.md R202 to R206): SPI_DONE over any family of frame decoders, step 1 of
UPDATE in an ABS mode, and UPDATE in an ABS mode as its consequence. -/

namespace Sys2Proof.Machine

/-! SPI_DONE (R202, R203). -/

theorem isAbs_eq_false_iff (n : Nat) (m : Word) : isAbs n m = false ↔ ¬ ∃ v, AbsVariant n m v := by
  rw [Bool.eq_false_iff]
  exact not_congr ⟨fun h => ⟨_, (isAbs_iff n m).mp h⟩, fun ⟨_, hv⟩ => hv.isAbs⟩

/-- A frame that the decoder of the mode's variant rejects is dropped (R203). -/
theorem latchFrame_of_none {dec : Nat → BitVec 16 → Option (BitVec 14)} {v : Nat} {s : State}
    (hv : AbsVariant s.params.nAbs s.cfg.mode v) (hdec : dec v s.spi.rx = none) : latchFrame dec s = s := by
  simp only [latchFrame, hv.eq, readSpiRx, hdec]

/-- A frame that it accepts is latched and marked (R203). -/
theorem latchFrame_of_some {dec : Nat → BitVec 16 → Option (BitVec 14)} {v : Nat} {s : State} {p : BitVec 14}
    (hv : AbsVariant s.params.nAbs s.cfg.mode v) (hdec : dec v s.spi.rx = some p) :
    latchFrame dec s = { s with spi.posAbs := p, status.absSpiPosUpdated := true } := by
  simp only [latchFrame, hv.eq, readSpiRx, hdec]

theorem spiCompletion_of_idle (dec : Nat → BitVec 16 → Option (BitVec 14)) (ok : Bool) (frame : BitVec 16) {s : State}
    (h : s.status.spiInflight = false) : spiCompletion dec ok frame s = .refused .nothingInFlight := by
  rw [spiCompletion, h]
  rfl

/-- A failed transfer, and one that completes outside the ABS modes, hands the buffers back and latches nothing (R202). -/
theorem spiCompletion_of_unlatched (dec : Nat → BitVec 16 → Option (BitVec 14)) {ok : Bool} (frame : BitVec 16)
    {s : State} (hfly : s.status.spiInflight = true) (h : ok = false ∨ isAbs s.params.nAbs s.cfg.mode = false) :
    spiCompletion dec ok frame s = .next (finish .ok (releaseSpi frame s)) := by
  rw [spiCompletion, hfly]
  rcases h with rfl | habs
  · rfl
  · rw [habs]
    cases ok <;> rfl

theorem spiCompletion_of_abs (dec : Nat → BitVec 16 → Option (BitVec 14)) (frame : BitVec 16) {s : State}
    (hfly : s.status.spiInflight = true) (habs : isAbs s.params.nAbs s.cfg.mode = true) :
    spiCompletion dec true frame s = .next (finish .ok (latchFrame dec (releaseSpi frame s))) := by
  rw [spiCompletion, hfly, habs]
  rfl

/-- Settles O29: the three clauses are the three ends of a completion; in the last the frame that is decoded is the one that
has just landed. -/
theorem spiDoneResult : Obligations.SpiDoneResult := by
  intro ok frame s
  refine ⟨spiCompletion_of_idle _ ok frame, fun hfly hno => ?_, fun v hfly hok hv => ?_⟩
  · exact spiCompletion_of_unlatched _ frame hfly (hno.imp_right (isAbs_eq_false_iff _ _).mpr)
  · subst hok
    rw [exec, execSpiDone, spiCompletion_of_abs _ frame hfly hv.isAbs]
    cases hdec : Config.absDecode v frame with
    | none => rw [latchFrame_of_none (s := releaseSpi frame s) hv hdec]; rfl
    | some p => rw [latchFrame_of_some (s := releaseSpi frame s) hv hdec]; rfl

/-! Step 1 of UPDATE in an ABS mode (R205, R206). -/

theorem stepOne_of_abs {s : State} {v : Nat} (h : AbsVariant s.params.nAbs s.cfg.mode v) : stepOne s = absStep s := by
  simp only [stepOne, (mode_abs_iff s v).mpr h]

/-- A miss that lifts the rate above its threshold ends step 1 (R205). -/
theorem absStep_of_comFail {s : State} (hmiss : s.status.absSpiPosUpdated = false)
    (hrate : (countMiss s).spi.errorRate.gt F32.fivePercent = true) :
    absStep s = .failed (raiseFault .absSpiComFail (countMiss s)) := by
  rw [absStep, hmiss, hrate]
  rfl

/-- A step 1 that goes on leaves the flag consumed and the rate moved, latches the position, hit or miss, and gives the
shorter way round to it (R205, R206). -/
theorem absStep_goOn {s u : State} {d : Int} {l : Option Word} (hm : absStep s = .moved d l u) :
    d = centered (s.spi.posAbs.toNat - s.est.countInCpr.toInt) s.cfg.cpr.toInt ∧
      l = some (s.spi.posAbs.setWidth 32) ∧ u.status.absSpiPosUpdated = false ∧
      u.est = s.est ∧ u.spi = { s.spi with
        errorRate := smoothRate s.plat.spiErrAlpha s.spi.errorRate
          (if s.status.absSpiPosUpdated then F32.zero else F32.one) } := by
  rcases absStep_cases s with ⟨hhit, hc⟩ | ⟨-, -, hc⟩ | ⟨hmiss, -, hc⟩ <;> rw [hc] at hm <;> cases hm
  · rw [hhit]
    exact ⟨rfl, rfl, rfl, rfl, rfl⟩
  · rw [hmiss]
    exact ⟨rfl, rfl, hmiss, rfl, rfl⟩

/-! UPDATE in an ABS mode. -/

/-- Steps 3 to 7 of UPDATE write the estimator and the two validity flags alone (41_tracker.md R140). -/
theorem runObserver_frame {d : Int} {s t : State} (h : runObserver d s = .next t) :
    ∃ e pos vel, t = finish .ok { s with est := e, status.posValid := pos, status.velValid := vel } := by
  obtain ⟨a, b, ha, hb, rfl⟩ := runObserver_next h
  obtain ⟨_, _, -, -, rfl⟩ := estimate_track ha
  rw [validityFlags_eq]
  rcases emitPhase_ok hb with ⟨-, rfl⟩ | ⟨-, _, -, rfl⟩
  · exact ⟨_, _, _, rfl⟩
  · exact ⟨_, _, _, rfl⟩

/-- Steps 2 to 7 of UPDATE leave the SPI registers and the flag of a fresh position as step 1 wrote them. -/
theorem execUpdate_keeps_spi {s t u : State} {d : Int} {l : Option Word} (h : execUpdate s = .next t)
    (hm : stepOne s = .moved d l u) : t.spi = u.spi ∧ t.status.absSpiPosUpdated = u.status.absSpiPosUpdated := by
  obtain ⟨-, ⟨_, hfail, -⟩ | ⟨_, _, _, hm', hrun⟩⟩ := execUpdate_cases h
  · rw [hm] at hfail; cases hfail
  · rw [hm] at hm'
    cases hm'
    obtain ⟨_, _, _, rfl⟩ := runObserver_frame hrun
    exact ⟨rfl, rfl⟩

/-- Settles O40: step 1 fails on the state with the risen rate, and that ends UPDATE. -/
theorem updateAbsComFail : Obligations.UpdateAbsComFail := by
  intro s v hlegal hv hmiss rate hrate
  have hfail : stepOne s = .failed (raiseFault .absSpiComFail (countMiss s)) := by
    rw [stepOne_of_abs hv]
    exact absStep_of_comFail hmiss hrate
  rw [exec, execUpdate_of_failed hlegal hfail, raiseFault, readyAfterFault_eq]
  rfl

/-- Settles O41: step 1 moves the rate, consumes the flag and latches the position, fresh or not; the counters follow it and
no later step writes any of these. -/
theorem updateAbsCounts : Obligations.UpdateAbsCounts := by
  intro s t v hexec hv hok
  obtain ⟨d, l, u, hm⟩ := execUpdate_ok hexec hok
  obtain ⟨hlegal, -, hshadow, hnext⟩ := execUpdate_counts hexec hm
  obtain ⟨hspi, hflag⟩ := execUpdate_keeps_spi hexec hm
  rw [stepOne_of_abs hv] at hm
  obtain ⟨rfl, rfl, hconsumed, hest, hrate⟩ := absStep_goOn hm
  rw [hrate] at hspi
  refine ⟨hflag.trans hconsumed, by rw [hspi]; rfl, by rw [hspi], ?_, _, centered_spec _ _ hlegal.cprPositive, ?_⟩
  · rw [hnext]
    exact latchedPosition_toInt s.spi.posAbs
  · rw [hshadow, hest]

end Sys2Proof.Machine
end

section
/-! PROOFS. The fault interface (45_system.md R228, R229): raising the bits of a mask at once, and that the loop over the
fault kinds of R228 does just that. -/

namespace Sys2Proof.Machine

/-- Every bit of `mask` raised at once (60_exceptions.md R262): what the loop of RAISE_ERROR comes to, whatever its order. -/
def raiseBits (mask : BitVec 8) (s : State) : State :=
  { s with
    error := s.error ||| mask
    status.posValid := s.status.posValid && decide (mask = 0)
    status.velValid := s.status.velValid && decide (mask = 0)
    isReady := s.isReady && decide (s.params.readyClearMask &&& mask = 0) }

theorem raiseBits_zero (s : State) : raiseBits 0 s = s := by simp [raiseBits]

theorem decide_or_eq_zero {w : Nat} (m n : BitVec w) : decide (m ||| n = 0) = (decide (m = 0) && decide (n = 0)) := by
  rw [← Bool.decide_and]
  exact decide_eq_decide.mpr BitVec.or_eq_zero_iff

theorem raiseBits_raiseBits (m n : BitVec 8) (s : State) : raiseBits n (raiseBits m s) = raiseBits (m ||| n) s := by
  have hready : decide (s.params.readyClearMask &&& (m ||| n) = 0) =
      (decide (s.params.readyClearMask &&& m = 0) && decide (s.params.readyClearMask &&& n = 0)) := by
    rw [BitVec.and_or_distrib_left, decide_or_eq_zero]
  simp only [raiseBits, BitVec.or_assoc, hready, decide_or_eq_zero, Bool.and_assoc]
  rfl

/-- A kind's own mask cuts the kind's bit out of a mask (60_exceptions.md R260). -/
theorem and_faultMask (c : BitVec 8) (k : FaultKind) :
    c &&& faultMask k = if c.getLsbD (faultBit k) then faultMask k else 0 := by
  have hmask : faultMask k = BitVec.twoPow 8 (faultBit k) := by cases k <;> rfl
  rw [hmask]
  exact BitVec.and_twoPow c (faultBit k)

theorem and_faultMask_eq_zero_iff (c : BitVec 8) (k : FaultKind) :
    c &&& faultMask k = 0 ↔ c.getLsbD (faultBit k) = false := by
  rw [and_faultMask]
  cases c.getLsbD (faultBit k) with
  | false => exact iff_of_true rfl rfl
  | true => exact iff_of_false (faultMask_ne_zero k) nofun

/-- `raise Fault(K)` raises the one bit of its kind. -/
theorem raiseFault_eq_raiseBits (k : FaultKind) (s : State) : raiseFault k s = raiseBits (faultMask k) s := by
  have hready : (!s.params.readyClearMask.getLsbD (faultBit k)) =
      decide (s.params.readyClearMask &&& faultMask k = 0) := by
    rw [Bool.eq_iff_iff, decide_eq_true_eq, and_faultMask_eq_zero_iff, Bool.not_eq_true']
  simp only [raiseFault, raiseBits, readyAfterFault_eq, hready, faultMask_ne_zero, decide_false, Bool.and_false]

/-- The bits of `ERROR` that the kinds of a list own. -/
def kindsMask : List FaultKind → BitVec 8
  | [] => 0
  | k :: rest => faultMask k ||| kindsMask rest

/-- The loop of R228 over a list raises the bits of the mask that the list's kinds own. -/
theorem raiseAll_eq_raiseBits (mask : BitVec 8) (ks : List FaultKind) (s : State) :
    raiseAll mask ks s = raiseBits (mask &&& kindsMask ks) s := by
  induction ks generalizing s with
  | nil => rw [raiseAll, kindsMask, show mask &&& 0 = 0 from BitVec.and_zero, raiseBits_zero]
  | cons k rest ih =>
    rw [raiseAll, kindsMask, BitVec.and_or_distrib_left, ← raiseBits_raiseBits, and_faultMask, ih]
    split
    · rw [raiseFault_eq_raiseBits]
    · rw [raiseBits_zero]

/-- The eight kinds own all eight bits (60_exceptions.md R260). -/
theorem kindsMask_faultKinds : kindsMask faultKinds = BitVec.allOnes 8 := by decide

/-- Settles O10: the loop over the eight kinds raises every bit of the mask. -/
theorem raiseErrorResult : Obligations.RaiseErrorResult := by
  intro mask s
  rw [exec, execRaiseError, raiseAll_eq_raiseBits, kindsMask_faultKinds, BitVec.and_allOnes]
  rfl

/-- Settles O11: the operation writes `ERROR` alone, and `encoder_failed` looks at `ERROR` alone. -/
theorem clearErrorsResult : Obligations.ClearErrorsResult := fun _ => ⟨rfl, rfl⟩

end Sys2Proof.Machine
end

section
/-! PROOFS. The switches of the counter and of the Hall sampling (45_system.md R226, R227, R236, R237), and the index pulse
(R220 to R223): a rebase to zero, the optional linear offset, the readiness. -/

namespace Sys2Proof.Machine

theorem counterStep_toNat (c : BitVec 16) (d : Int) : ((counterStep c d).toNat : Int) = (c.toNat + d) % 65536 := by
  rw [counterStep, BitVec.toNat_ofInt]
  omega

/-- Settles O17: both operations are one step of the 16-bit counter. -/
theorem countSteps : Obligations.CountSteps := by
  refine fun s => ⟨⟨_, rfl, ?_, rfl⟩, ⟨_, rfl, counterStep_toNat s.hwcnt (-1), rfl⟩⟩
  exact Int.natCast_inj.mp (counterStep_toNat s.hwcnt 1)

/-- Settles O23: the cleared scratch is the constant table, entry by entry. -/
theorem hallcalSwitches : Obligations.HallcalSwitches := fun _ => ⟨rfl, rfl⟩

/-! The rebase to zero. -/

theorem circularCount_zero (s : State) : circularCount 0 s = 0 := Int.zero_emod _

/-- The rebase of the index pulse (R220): the count becomes zero, the offset follows it if asked. -/
theorem writeCircular_zero (u : Bool) (s : State) :
    writeCircular 0 u s =
      { s with
        cfg.phaseOffset := if u then s.cfg.phaseOffset - s.est.countInCpr else s.cfg.phaseOffset
        est.countInCpr := 0
        est.posCpr := if s.params.circRebasePll then ⟨0⟩ else s.est.posCpr } := by
  have hoffset : shiftedOffset 0 s = s.cfg.phaseOffset - s.est.countInCpr := by
    rw [shiftedOffset_eq, show wrap32 0 = 0 from rfl, add_sub_left_comm, zero_add]
  have hzero : F32.ofInt 0 = ⟨0⟩ := by decide
  rw [writeCircular, circularCount_zero, hoffset, hzero]
  rfl

/-! The linear offset (R221). -/

/-- A `trunc_int` that has a value has a 32-bit one (00_scope.md R14). -/
theorem truncInt_bounds {x : F32} {n : Int} (h : x.truncInt = some n) : -2147483648 ≤ n ∧ n < 2147483648 := by
  unfold F32.truncInt at h
  split at h
  · obtain ⟨hn, hlow, hhigh⟩ := within32_some _ _ h
    exact ⟨by omega, by omega⟩
  · cases h

theorem low16_wrap32 (n : Int) : low16 (wrap32 n) = BitVec.ofInt 16 n := by
  apply BitVec.eq_of_toNat_eq
  rw [low16, wrap32, BitVec.toNat_setWidth, BitVec.toNat_ofInt, BitVec.toNat_ofInt]
  omega

/-- The writes of SET_LINEAR_COUNT for a 32-bit integer (41_tracker.md R152). -/
theorem writeLinear_wrap32 {n : Int} (hlow : -2147483648 ≤ n) (hhigh : n < 2147483648) (s : State) :
    writeLinear (wrap32 n) s =
      { s with est.shadowCount := BitVec.ofInt 32 n, est.posEstimate := F32.ofInt n, hwcnt := BitVec.ofInt 16 n } := by
  rw [writeLinear, f32OfWord, wrap32_toInt n hlow hhigh, low16_wrap32]
  rfl

theorem linearOffset_refused {s : State} (huse : s.cfg.flags.useIndexOffset = true)
    (h : (s.cfg.indexOffset.mul (f32OfWord s.cfg.cpr)).truncInt = none) : linearOffset s = .error .floatToInt := by
  simp only [linearOffset, huse, if_true, h]

/-- The linear offset writes SET_LINEAR_COUNT's three registers where it is asked for, and nothing else. -/
theorem linearOffset_eq {s : State} {n : Int}
    (h : s.cfg.flags.useIndexOffset = true → (s.cfg.indexOffset.mul (f32OfWord s.cfg.cpr)).truncInt = some n) :
    linearOffset s = .ok
      { s with
        est.shadowCount := if s.cfg.flags.useIndexOffset then BitVec.ofInt 32 n else s.est.shadowCount
        est.posEstimate := if s.cfg.flags.useIndexOffset then F32.ofInt n else s.est.posEstimate
        hwcnt := if s.cfg.flags.useIndexOffset then BitVec.ofInt 16 n else s.hwcnt } := by
  cases huse : s.cfg.flags.useIndexOffset with
  | false => simp only [linearOffset, huse, Bool.false_eq_true, if_false]
  | true =>
    obtain ⟨hlow, hhigh⟩ := truncInt_bounds (h huse)
    simp only [linearOffset, huse, if_true, h huse, writeLinear_wrap32 hlow hhigh]

/-! The pulse. -/

theorem indexReadiness_eq (s : State) :
    indexReadiness s =
      { s with
        isReady :=
          if s.cfg.flags.preCalibrated then s.isReady || decide (s.error = 0)
          else s.isReady && s.params.indexUpdateOffset } := by
  have hpre : (if s.error = 0 then true else s.isReady) = (s.isReady || decide (s.error = 0)) := by
    by_cases he : s.error = 0
    · rw [if_pos he, decide_eq_true he, Bool.or_true]
    · rw [if_neg he, decide_eq_false he, Bool.or_false]
  have hnot : (if s.params.indexUpdateOffset then s.isReady else false) =
      (s.isReady && s.params.indexUpdateOffset) := by
    cases s.params.indexUpdateOffset <;> simp
  rw [indexReadiness, hpre, hnot]

/-- A pulse that finds the interrupt not armed or the index unused is ignored (R223). -/
theorem execIndexPulse_ignored {s : State} (h : CprLegal s)
    (hoff : s.status.indexArmed = false ∨ s.cfg.flags.useIndex = false) :
    execIndexPulse s = .next (finish .ok s) := by
  have hguard : (s.status.indexArmed && s.cfg.flags.useIndex) = false := Bool.and_eq_false_iff.mpr hoff
  simp only [execIndexPulse, indexGate_of_legal h, hguard, Bool.false_eq_true, if_false]

/-- A pulse that is heard goes through its linear offset on the rebased counters (R220, R221). -/
theorem execIndexPulse_heard {s t : State} (h : CprLegal s) (harmed : s.status.indexArmed = true)
    (huse : s.cfg.flags.useIndex = true)
    (hlinear : linearOffset (writeCircular 0 s.params.indexUpdateOffset s) = .ok t) :
    execIndexPulse s = .next (finish .ok (indexSeen (indexReadiness t))) := by
  simp only [execIndexPulse, indexGate_of_legal h, harmed, huse, Bool.and_self, if_true, hlinear]

theorem execIndexPulse_offset_refused {s : State} {r : Refusal} (h : CprLegal s) (harmed : s.status.indexArmed = true)
    (huse : s.cfg.flags.useIndex = true)
    (hlinear : linearOffset (writeCircular 0 s.params.indexUpdateOffset s) = .error r) :
    execIndexPulse s = .refused r := by
  simp only [execIndexPulse, indexGate_of_legal h, harmed, huse, Bool.and_self, if_true, hlinear]

/-- Settles O24: the gate, the guard and the linear offset are the three places where the pulse branches; past them its
writes are those of the rebase, the offset and the readiness, one on the other. -/
theorem indexPulseEffect : Obligations.IndexPulseEffect := by
  refine ⟨fun s hcpr => ?_, fun s h harmed huse hoff hnone => ?_, fun s h hoff => ?_, fun s n h harmed huse hsome => ?_⟩
  · have hgate := indexGate_of_illegal (s := s) fun h => absurd h.positive (not_lt.mpr hcpr)
    simp only [exec, execIndexPulse, hgate]
  · exact execIndexPulse_offset_refused h harmed huse (linearOffset_refused hoff hnone)
  · exact execIndexPulse_ignored h hoff
  · have hlinear := linearOffset_eq (s := writeCircular 0 s.params.indexUpdateOffset s) hsome
    rw [exec, execIndexPulse_heard h harmed huse hlinear, indexReadiness_eq, writeCircular_zero]
    rfl

end Sys2Proof.Machine
end

section
/-! PROOFS. The host's register access (45_system.md R230 to R232): what a written register then holds, cut to its type, and
what REG_READ puts on `rdata`. -/

namespace Sys2Proof.Machine

/-- What a register of a type takes of a 32-bit value (45_system.md R231; 20_memory.md R77). -/
def cutToType (t : RegType) (v : Word) : Word :=
  match t with
  | .s32 => v
  | .f32 => v
  | .u n => BitVec.ofNat 32 (v.toNat % 2 ^ n)
  | .flags => v &&& 0x1F

theorem cutToType_u_toNat (n : Nat) (v : Word) : (cutToType (.u n) v).toNat = v.toNat % 2 ^ n := by
  rw [cutToType, BitVec.toNat_ofNat]
  exact Nat.mod_eq_of_lt ((Nat.mod_le _ _).trans_lt v.isLt)

/-- A bit of a word as the binary digit of its number. -/
theorem bitNat_getLsbD (v : Word) (i : Nat) : bitNat (v.getLsbD i) = v.toNat / 2 ^ i % 2 := by
  rw [BitVec.getLsbD, Nat.testBit_eq_decide_div_mod_eq, bitNat]
  simp only [decide_eq_true_eq]
  split <;> omega

/-- A one-bit register takes bit 0 (10_state.md R36). -/
theorem flagWord_getLsbD_zero (v : Word) : flagWord (v.getLsbD 0) = cutToType (.u 1) v := by
  rw [flagWord, bitNat_getLsbD, cutToType, pow_zero, Nat.div_one, pow_one]

/-- `CFG_FLAGS` takes bits 4:0 (10_state.md R45). -/
theorem toWord_ofWord (v : Word) : (CfgFlags.ofWord v).toWord = cutToType .flags v := by
  apply BitVec.eq_of_toNat_eq
  have hmask : (v &&& 0x1F).toNat = v.toNat % 32 := by
    rw [BitVec.toNat_and]
    exact Nat.and_two_pow_sub_one_eq_mod v.toNat 5
  simp only [CfgFlags.ofWord, CfgFlags.toWord, bitNat_getLsbD, cutToType, hmask, BitVec.toNat_ofNat]
  omega

/-- A register that the host may write holds, once written, the value cut to its type (R231). -/
theorem regContent_writeContent {r : Reg} (v : Word) (s : State) (h : r.hostClass ≠ .ro) :
    regContent r (writeContent r v s) = cutToType r.type v := by
  cases r with
  | cfgMode =>
    apply BitVec.eq_of_toNat_eq
    exact ((cutToType_u_toNat 32 v).trans (Nat.mod_eq_of_lt v.isLt)).symm
  | cfgHallPolarity =>
    apply BitVec.eq_of_toNat_eq
    rw [show regContent .cfgHallPolarity (writeContent .cfgHallPolarity v s) = (v.setWidth 3).setWidth 32 from rfl,
      Reg.type, cutToType_u_toNat, BitVec.toNat_setWidth, BitVec.toNat_setWidth]
    omega
  | cfgFlags => exact toWord_ofWord v
  | isReady | indexFound | hallPolarityCalibrated => exact flagWord_getLsbD_zero v
  | cfgHallEdge k => exact congrArg F32.bits (Six.get_set_same s.cfg.hallEdge k ⟨v⟩)
  | _ => first | rfl | exact absurd rfl h

/-- A register that the host has written counts as written (10_state.md R50). -/
theorem holdsValue_writeContent {r : Reg} (v : Word) (s : State) : holdsValue r (writeContent r v s) = true := by
  cases r <;> rfl

/-- A register's write reaches none of the model's own fields but the written bits, and no SPI register. -/
theorem writeContent_frame (r : Reg) (v : Word) (s : State) :
    (writeContent r v s).spi = s.spi ∧ (writeContent r v s).params = s.params ∧
      (writeContent r v s).ports = s.ports ∧ (writeContent r v s).pending = s.pending ∧
      (writeContent r v s).draws = s.draws := by
  cases r <;> exact ⟨rfl, rfl, rfl, rfl, rfl⟩

@[simp] theorem regContent_finish (r : Reg) (o : OpResult) (s : State) :
    regContent r (finish o s) = regContent r s := by
  obtain ⟨hcontent, -⟩ := regKept_out r s (Outputs.plain o)
  exact hcontent

@[simp] theorem holdsValue_finish (r : Reg) (o : OpResult) (s : State) :
    holdsValue r (finish o s) = holdsValue r s := by
  obtain ⟨-, hholds⟩ := regKept_out r s (Outputs.plain o)
  exact hholds

theorem legalDirection_eq_false {v : Word} (hneg : v.toInt ≠ -1) (hzero : v.toInt ≠ 0) (hone : v.toInt ≠ 1) :
    legalDirection v = false := by
  simp [legalDirection, hneg, hzero, hone]

/-- Settles O27: REG_WRITE's three checks in their order; past them the register written holds the value cut to its type and
every other one is kept. -/
theorem regWriteResult : Obligations.RegWriteResult := by
  refine ⟨fun idx v s h => ?_, fun r v s h => ?_, fun v s hneg hzero hone => ?_, fun r v s h hdir => ?_⟩
  · simp only [exec, execRegWrite, h]
  · simp only [exec, execRegWrite, ofIndex_index, h, if_true]
  · have hreg : Reg.ofIndex 0x03 = some .cfgDirection := ofIndex_index .cfgDirection
    have hillegal := legalDirection_eq_false hneg hzero hone
    simp only [exec, execRegWrite, hreg, hillegal]
    rfl
  · have hexec := exec_regWriteOf s h fun hr => (legalDirection_iff v).mpr (hdir hr)
    have hcontent : regContent r (finish .ok (writeContent r v s)) = cutToType r.type v := by
      rw [regContent_finish, regContent_writeContent v s h]
    obtain ⟨hspi, hparams, hports, hpending, hdraws⟩ := writeContent_frame r v s
    refine ⟨_, hexec, ?_, ?_, ?_, ?_, ?_, hspi, hparams, hports, hpending, hdraws, rfl⟩
    · rw [holdsValue_finish, holdsValue_writeContent]
    · rintro (ht | ht) <;> rw [hcontent, ht, cutToType]
    · intro n ht
      rw [hcontent, ht, cutToType_u_toNat]
    · intro ht
      rw [hcontent, ht, cutToType]
    · intro r' hne
      rw [regContent_finish, holdsValue_finish]
      exact regKept_writeContent v s hne.symm

/-- REG_READ gives the content as it stands but for the NaN of an `f32` register (42_pll.md R177). -/
theorem regValue_of_not_nan {r : Reg} {s : State} (h : r.type ≠ .f32 ∨ (F32.mk (regContent r s)).isNaN = false) :
    regValue r s = regContent r s := by
  refine if_neg fun ⟨ht, hnan⟩ => ?_
  rcases h with hne | hnot
  · exact hne ht
  · exact Bool.false_ne_true (hnot.symm.trans hnan)

theorem regValue_isNaN {r : Reg} {s : State} (ht : r.type = .f32) (hnan : (F32.mk (regContent r s)).isNaN = true) :
    (F32.mk (regValue r s)).isNaN = true := by
  rw [regValue, if_pos ⟨ht, hnan⟩]
  exact freeNan_isNaN _ _ _

/-- Settles O26: what is read is the content, or a free NaN in place of a NaN. -/
theorem regReadResult : Obligations.RegReadResult := by
  refine ⟨fun idx s h => ?_, fun idx r s h => ⟨regValue r s, ?_, regValue_of_not_nan, regValue_isNaN⟩⟩
  · simp only [exec, execRegRead, h]
  · simp only [exec, execRegRead, h]
    rfl

end Sys2Proof.Machine
end

section
/-! PROOFS. The polarity table (46_calibration.md R247): its four rows are the patterns that the Hall lookup (43_hall.md R191)
accepts under the four masks of at most one bit. -/

namespace Sys2Proof.Machine

/-- The eight raw states in order, `true` for one that the Hall lookup accepts under the mask. -/
def acceptedUnder (m : BitVec 3) : List Bool :=
  [0, 1, 2, 3, 4, 5, 6, 7].map fun raw : BitVec 3 => (hallCount (raw ^^^ m)).isSome

theorem polarityOf_acceptedUnder {m : BitVec 3} (hm : m = 0 ∨ m = 1 ∨ m = 2 ∨ m = 4) :
    polarityOf (acceptedUnder m) = some m := by
  obtain rfl | rfl | rfl | rfl := hm <;> rfl

/-- The table has no other row. -/
theorem acceptedUnder_of_polarityOf {confirmed : List Bool} {m : BitVec 3} (h : polarityOf confirmed = some m) :
    (m = 0 ∨ m = 1 ∨ m = 2 ∨ m = 4) ∧ confirmed = acceptedUnder m := by
  unfold polarityOf at h
  split at h
  case h_5 => exact absurd h (Option.some_ne_none m).symm
  all_goals
    obtain rfl := Option.some.inj h
    exact ⟨by decide, rfl⟩

/-- Settles O47: a row of the table is what the lookup accepts under the row's mask, and each of the four masks has its row. -/
theorem polarityExplainsMissingStates : Obligations.PolarityExplainsMissingStates := by
  intro c0 c1 c2 c3 c4 c5 c6 c7 m
  constructor
  · exact acceptedUnder_of_polarityOf
  · rintro ⟨hm, hconfirmed⟩
    rw [hconfirmed]
    exact polarityOf_acceptedUnder hm

end Sys2Proof.Machine
end

section
/-! PROOFS. The fault registers (60_exceptions.md R260 to R264): `ERROR`, the two validity flags and `IS_READY`. What an
operation does to the four is said once, as one of seven effects; what sticks, what comes back and how, and what every
step keeps are then read off the effect. -/

namespace Sys2Proof.Machine

/-! The fault registers. -/

/-- Two states with the same `ERROR`, validity flags and `IS_READY`. -/
structure FaultRegsAgree (t u : State) : Prop where
  error : t.error = u.error
  posValid : t.status.posValid = u.status.posValid
  velValid : t.status.velValid = u.status.velValid
  isReady : t.isReady = u.isReady

/-- An operation's outcome is no fault register. -/
theorem FaultRegsAgree.finish_left {t u : State} (r : OpResult) (h : FaultRegsAgree t u) :
    FaultRegsAgree (finish r t) u := ⟨h.error, h.posValid, h.velValid, h.isReady⟩

/-- What an operation does to the fault registers on its way from `s` to `t` (60_exceptions.md R260, R262, R264). -/
inductive FaultEffect (s t : State) : Instr → Prop where
  | kept (i : Instr) (h : FaultRegsAgree t s) : FaultEffect s t i
  /-- A kind that the block itself detects: one of the bits 0 to 3. -/
  | raised (i : Instr) (k : FaultKind) (hk : faultBit k < 4) (h : FaultRegsAgree t (raiseFault k s)) : FaultEffect s t i
  | raisedByHost (mask : BitVec 8) (h : FaultRegsAgree t (raiseBits mask s)) : FaultEffect s t (.raiseError mask)
  | cleared (h : FaultRegsAgree t { s with error := 0 }) : FaultEffect s t .clearErrors
  | completed (hok : t.out.result = .ok) (h : FaultRegsAgree t (validityFlags s)) : FaultEffect s t .update
  | indexed (harmed : s.status.indexArmed = true) (huse : s.cfg.flags.useIndex = true)
      (h : FaultRegsAgree t (indexReadiness s)) : FaultEffect s t .indexPulse
  | readyWritten (v : Word) (h : FaultRegsAgree t { s with isReady := v.getLsbD 0 }) :
    FaultEffect s t (.regWrite 0x12 v)

/-! The effect of each operation. -/

theorem execSample_faultEffect {s t : State} (h : execSample s = .next t) : FaultEffect s t .sample := by
  cases h
  cases s.mode with
  | incremental | hall | sincos => exact .kept _ ⟨rfl, rfl, rfl, rfl⟩
  | abs v =>
    rw [sampleIn, sampleAbs]
    split
    · exact .kept _ ⟨rfl, rfl, rfl, rfl⟩
    · exact .kept _ ⟨rfl, rfl, rfl, rfl⟩
  | unsupported => exact .raised _ .unsupportedMode (by decide) ⟨rfl, rfl, rfl, rfl⟩

/-- Where step 1 of UPDATE fails, it has raised a kind of the bits 0 to 3 (41_tracker.md R147). -/
theorem stepOne_raises {s u : State} (h : stepOne s = .failed u) :
    ∃ k, faultBit k < 4 ∧ FaultRegsAgree u (raiseFault k s) := by
  unfold stepOne at h
  split at h
  case h_1 => cases h
  case h_2 =>
    rcases hallStep_failed h with ⟨-, -, rfl⟩ | ⟨-, rfl, -⟩
    · exact ⟨.illegalHallState, by decide, rfl, rfl, rfl, rfl⟩
    · exact ⟨.illegalHallState, by decide, rfl, rfl, rfl, rfl⟩
  case h_3 => cases h
  case h_4 =>
    obtain ⟨-, -, rfl⟩ := absStep_failed h
    exact ⟨.absSpiComFail, by decide, rfl, rfl, rfl, rfl⟩
  case h_5 =>
    cases h
    exact ⟨.unsupportedMode, by decide, rfl, rfl, rfl, rfl⟩

theorem execUpdate_faultEffect {s t : State} (h : execUpdate s = .next t) : FaultEffect s t .update := by
  cases hres : t.out.result with
  | fail =>
    obtain ⟨u, hu, rfl⟩ := execUpdate_fail h hres
    obtain ⟨k, hk, ha⟩ := stepOne_raises hu
    exact .raised _ k hk (ha.finish_left _)
  | ok =>
    rcases execUpdate_frame h with ⟨_, _, _, _, rfl⟩ | ⟨_, _, _, _, _, rfl, -⟩
    · cases hres
    · refine .completed hres ?_
      rw [validityFlags_eq]
      exact ⟨rfl, rfl, rfl, rfl⟩

theorem execIndexPulse_faultEffect {s t : State} (h : execIndexPulse s = .next t) : FaultEffect s t .indexPulse := by
  rcases execIndexPulse_cases h with ⟨rfl, -⟩ | ⟨harmed, huse, -, u, hu, rfl⟩
  · exact .kept _ ⟨rfl, rfl, rfl, rfl⟩
  · obtain ⟨_, _, _, rfl⟩ := linearOffset_frame hu
    exact .indexed harmed huse ⟨rfl, rfl, rfl, rfl⟩

theorem latchFrame_faultRegs (dec : Nat → BitVec 16 → Option (BitVec 14)) (s : State) :
    FaultRegsAgree (latchFrame dec s) s := by
  unfold latchFrame
  split
  · exact ⟨rfl, rfl, rfl, rfl⟩
  · exact ⟨rfl, rfl, rfl, rfl⟩

/-- SPI_DONE raises nothing: a failed transfer and a rejected frame latch nothing (44_abs_spi.md R202, R203). -/
theorem execSpiDone_faultRegs {ok : Bool} {frame : BitVec 16} {s t : State} (h : execSpiDone ok frame s = .next t) :
    FaultRegsAgree t s := by
  unfold execSpiDone spiCompletion at h
  split at h
  · cases h
  · split at h
    · cases h; exact ⟨rfl, rfl, rfl, rfl⟩
    · split at h
      · cases h
        obtain ⟨herror, hpos, hvel, hready⟩ := latchFrame_faultRegs Config.absDecode (releaseSpi frame s)
        exact ⟨herror, hpos, hvel, hready⟩
      · cases h; exact ⟨rfl, rfl, rfl, rfl⟩

theorem execUpdatePllGains_faultEffect {s t : State} (h : execUpdatePllGains s = .next t) :
    FaultEffect s t .updatePllGains := by
  unfold execUpdatePllGains at h
  split at h
  · cases h
  · split at h
    · cases h; exact .raised _ .unstableGain (by decide) ⟨rfl, rfl, rfl, rfl⟩
    · cases h; exact .kept _ ⟨rfl, rfl, rfl, rfl⟩

theorem execRaiseError_faultEffect {mask : BitVec 8} {s t : State} (h : execRaiseError mask s = .next t) :
    FaultEffect s t (.raiseError mask) := by
  cases h
  rw [raiseAll_eq_raiseBits, kindsMask_faultKinds, BitVec.and_allOnes]
  exact .raisedByHost mask ⟨rfl, rfl, rfl, rfl⟩

/-- `IS_READY` is the one fault register that a host write reaches (10_state.md R22). -/
theorem writeContent_faultRegs {r : Reg} (v : Word) (s : State) (hr : r ≠ .isReady) :
    FaultRegsAgree (writeContent r v s) s := by
  cases r <;> first | exact ⟨rfl, rfl, rfl, rfl⟩ | exact absurd rfl hr

theorem execRegWrite_faultEffect {idx : BitVec 8} {v : Word} {s t : State} (h : execRegWrite idx v s = .next t) :
    FaultEffect s t (.regWrite idx v) := by
  obtain ⟨r, hidx, -, -, rfl⟩ := execRegWrite_cases h
  by_cases hr : r = .isReady
  · subst hr
    obtain rfl : idx = 0x12 := eq_index_of_ofIndex hidx
    exact .readyWritten v ⟨rfl, rfl, rfl, rfl⟩
  · exact .kept _ ((writeContent_faultRegs v s hr).finish_left _)

/-- Every operation with a next state has one of the seven effects on the fault registers. -/
theorem exec_faultEffect {i : Instr} {s t : State} (h : exec i s = .next t) : FaultEffect s t i := by
  cases i with
  | sample => exact execSample_faultEffect h
  | update => exact execUpdate_faultEffect h
  | indexPulse => exact execIndexPulse_faultEffect h
  | spiDone ok frame => exact .kept _ (execSpiDone_faultRegs h)
  | setCircularCount n u =>
    obtain ⟨-, rfl⟩ := execSetCircularCount_next h
    exact .kept _ ⟨rfl, rfl, rfl, rfl⟩
  | updatePllGains => exact execUpdatePllGains_faultEffect h
  | raiseError mask => exact execRaiseError_faultEffect h
  | clearErrors => cases h; exact .cleared ⟨rfl, rfl, rfl, rfl⟩
  | regRead idx =>
    obtain ⟨_, rfl⟩ := execRegRead_frame h
    exact .kept _ ⟨rfl, rfl, rfl, rfl⟩
  | regWrite idx v => exact execRegWrite_faultEffect h
  | countUp | countDown | setLinearCount | armIndex | disarmIndex | hallcalStart | hallcalStop =>
    cases h
    exact .kept _ ⟨rfl, rfl, rfl, rfl⟩

/-! A standing fault keeps the validity flags clear (R262, R263). -/

theorem faultInvalidates_of_agree {t u : State} (h : FaultRegsAgree t u) (hu : FaultInvalidates u) :
    FaultInvalidates t := by
  intro herror
  rw [h.error] at herror
  rw [h.posValid, h.velValid]
  exact hu herror

theorem raiseFault_faultInvalidates (k : FaultKind) (s : State) : FaultInvalidates (raiseFault k s) :=
  fun _ => ⟨rfl, rfl⟩

/-- An empty mask leaves the state to its own, and any other clears both flags (45_system.md R228). -/
theorem raiseBits_faultInvalidates (mask : BitVec 8) {s : State} (hs : FaultInvalidates s) :
    FaultInvalidates (raiseBits mask s) := by
  by_cases hmask : mask = 0
  · rw [hmask, raiseBits_zero]; exact hs
  · intro _
    simp only [raiseBits, decide_eq_false hmask, Bool.and_false, and_self]

/-- The end of a complete UPDATE sets the flags only where no fault stands (42_pll.md R176). -/
theorem validityFlags_faultInvalidates {s : State} (hs : FaultInvalidates s) : FaultInvalidates (validityFlags s) := by
  intro herror
  rw [validityFlags_error] at herror
  rw [validityFlags_of_error s herror]
  exact hs herror

theorem exec_keeps_faultInvalidates {i : Instr} {s t : State} (h : exec i s = .next t) (hs : FaultInvalidates s) :
    FaultInvalidates t := by
  cases exec_faultEffect h with
  | kept _ ha => exact faultInvalidates_of_agree ha hs
  | raised _ k _ ha => exact faultInvalidates_of_agree ha (raiseFault_faultInvalidates k s)
  | raisedByHost mask ha => exact faultInvalidates_of_agree ha (raiseBits_faultInvalidates mask hs)
  | cleared ha => exact faultInvalidates_of_agree ha fun hne => absurd rfl hne
  | completed _ ha => exact faultInvalidates_of_agree ha (validityFlags_faultInvalidates hs)
  | indexed _ _ ha => exact faultInvalidates_of_agree (u := indexReadiness s) ha hs
  | readyWritten v ha => exact faultInvalidates_of_agree (u := { s with isReady := v.getLsbD 0 }) ha hs

/-- Settles O50: no effect on the fault registers leaves a flag set beside a standing fault. -/
theorem stepKeepsFaultInvalidates : Obligations.StepKeepsFaultInvalidates :=
  step_keeps (fun _ _ _ _ hs => hs) fun _ _ _ h hs => exec_keeps_faultInvalidates h hs

/-! The bits of `ERROR` (R260, R263). -/

/-- The mask of a kind is `1 << K` (R260). -/
theorem faultMask_eq_shiftLeft (k : FaultKind) : faultMask k = (1 : BitVec 8) <<< faultBit k := by cases k <;> rfl

theorem faultMask_getLsbD_of_ne {k : FaultKind} {n : Nat} (h : faultBit k ≠ n) : (faultMask k).getLsbD n = false := by
  rw [faultMask_eq_shiftLeft]
  exact (BitVec.getLsbD_twoPow (faultBit k) n).trans (by simp [h])

/-- Every operation but CLEAR_ERRORS adds a mask to `ERROR`, and all but RAISE_ERROR add none of the bits 4 to 7. -/
theorem exec_error {i : Instr} {s t : State} (h : exec i s = .next t) (hi : i ≠ .clearErrors) :
    ∃ m, t.error = s.error ||| m ∧ ((∀ mask, i ≠ .raiseError mask) → ∀ n, 4 ≤ n → m.getLsbD n = false) := by
  have hnone : ∀ n, 4 ≤ n → (0 : BitVec 8).getLsbD n = false := fun n _ => BitVec.getLsbD_zero
  have hzero : s.error = s.error ||| 0 := BitVec.or_zero.symm
  cases exec_faultEffect h with
  | kept _ ha => exact ⟨0, ha.error.trans hzero, fun _ => hnone⟩
  | raised _ k hk ha =>
    exact ⟨faultMask k, ha.error, fun _ n hn => faultMask_getLsbD_of_ne (by omega)⟩
  | raisedByHost mask ha => exact ⟨mask, ha.error, fun hne => absurd rfl (hne mask)⟩
  | cleared => exact absurd rfl hi
  | completed _ ha => exact ⟨0, (ha.error.trans (validityFlags_error s)).trans hzero, fun _ => hnone⟩
  | indexed _ _ ha => exact ⟨0, ha.error.trans hzero, fun _ => hnone⟩
  | readyWritten _ ha => exact ⟨0, ha.error.trans hzero, fun _ => hnone⟩

/-- Settles O13: or-ing a mask in keeps every set bit, and no bit that the mask lacks changes. -/
theorem errorBitsSticky : Obligations.ErrorBitsSticky := by
  intro i s t h hi
  obtain ⟨m, herror, hlow⟩ := exec_error h hi
  rw [herror]
  refine ⟨fun n hn => ?_, fun hraise n hn => ?_⟩
  · rw [BitVec.getLsbD_or, hn, Bool.true_or]
  · rw [BitVec.getLsbD_or, hlow hraise n hn, Bool.or_false]

/-! The ways back (R264). -/

/-- The validity flags rise at the end of an UPDATE that completes with no fault standing, and nowhere else. -/
theorem exec_validity {i : Instr} {s t : State} (h : exec i s = .next t) :
    (i = .update ∧ s.error = 0 ∧ t.error = 0 ∧ t.out.result = .ok) ∨
      ((t.status.posValid = true → s.status.posValid = true) ∧
        (t.status.velValid = true → s.status.velValid = true)) := by
  cases exec_faultEffect h with
  | kept _ ha => rw [ha.posValid, ha.velValid]; exact .inr ⟨id, id⟩
  | raised _ k _ ha => rw [ha.posValid, ha.velValid]; exact .inr ⟨nofun, nofun⟩
  | raisedByHost mask ha =>
    rw [ha.posValid, ha.velValid]
    exact .inr ⟨Bool.and_elim_left, Bool.and_elim_left⟩
  | cleared ha => rw [ha.posValid, ha.velValid]; exact .inr ⟨id, id⟩
  | completed hok ha =>
    by_cases herror : s.error = 0
    · exact .inl ⟨rfl, herror, (ha.error.trans (validityFlags_error s)).trans herror, hok⟩
    · rw [ha.posValid, ha.velValid, validityFlags_of_error s herror]
      exact .inr ⟨id, id⟩
  | indexed _ _ ha => rw [ha.posValid, ha.velValid]; exact .inr ⟨id, id⟩
  | readyWritten _ ha => rw [ha.posValid, ha.velValid]; exact .inr ⟨id, id⟩

/-- A noted index pulse makes ready only a pre-calibrated encoder without a fault (45_system.md R222). -/
theorem indexReadiness_rises {s : State} (hs : s.isReady = false) (h : (indexReadiness s).isReady = true) :
    s.cfg.flags.preCalibrated = true ∧ s.error = 0 := by
  rw [indexReadiness_eq] at h
  cases hpre : s.cfg.flags.preCalibrated with
  | false => simp [hpre, hs] at h
  | true => exact ⟨rfl, by simpa [hpre, hs] using h⟩

/-- `IS_READY` rises by a host write of 1 or by a noted index pulse, and in no other way. -/
theorem exec_isReady_rises {i : Instr} {s t : State} (h : exec i s = .next t) (hs : s.isReady = false)
    (ht : t.isReady = true) :
    (∃ v : BitVec 32, i = .regWrite 0x12 v ∧ v.getLsbD 0 = true) ∨
      (i = .indexPulse ∧ s.status.indexArmed = true ∧ s.cfg.flags.useIndex = true ∧
        s.cfg.flags.preCalibrated = true ∧ s.error = 0) := by
  have hstill : s.isReady ≠ true := Bool.eq_false_iff.mp hs
  cases exec_faultEffect h with
  | kept _ ha => exact absurd (ha.isReady.symm.trans ht) hstill
  | raised _ k _ ha =>
    rw [ha.isReady, raiseFault_isReady, readyAfterFault_eq] at ht
    exact absurd (Bool.and_elim_left ht) hstill
  | raisedByHost mask ha => exact absurd (Bool.and_elim_left (ha.isReady.symm.trans ht)) hstill
  | cleared ha => exact absurd (ha.isReady.symm.trans ht) hstill
  | completed _ ha =>
    rw [ha.isReady, validityFlags_isReady] at ht
    exact absurd ht hstill
  | indexed harmed huse ha =>
    exact .inr ⟨rfl, harmed, huse, indexReadiness_rises hs (ha.isReady.symm.trans ht)⟩
  | readyWritten v ha => exact .inl ⟨v, rfl, ha.isReady.symm.trans ht⟩

/-- Settles O14: an `ERROR` bit falls by CLEAR_ERRORS alone since the others keep every set bit; the flags rise as the
effects on the fault registers allow. -/
theorem recoveryPaths : Obligations.RecoveryPaths := by
  intro i s t h
  have hvalid := exec_validity h
  refine ⟨fun ⟨n, hset, hfallen⟩ => ?_, fun hs ht => ?_, fun hs ht => ?_, exec_isReady_rises h⟩
  · by_contra hi
    obtain ⟨hsticky, -⟩ := errorBitsSticky i s t h hi
    exact Bool.false_ne_true (hfallen.symm.trans (hsticky n hset))
  · exact hvalid.resolve_right fun ⟨hpos, _⟩ => Bool.false_ne_true (hs.symm.trans (hpos ht))
  · exact hvalid.resolve_right fun ⟨_, hvel⟩ => Bool.false_ne_true (hs.symm.trans (hvel ht))

/-! The raise itself (R262). -/

/-- Settles O9: the kind's mask is `1 << K`, and a bit of `ERROR` stands after it. -/
theorem raiseFaultEffect : Obligations.RaiseFaultEffect := by
  intro k s
  refine ⟨?_, decide_eq_true (raiseFault_error_ne_zero k s)⟩
  rw [raiseFault, readyAfterFault_eq, faultMask_eq_shiftLeft]

end Sys2Proof.Machine
end

section
/-! PROOFS. The agent's port (60_exceptions.md R276) and the arming of the index interrupt (45_system.md R224, R225). -/

namespace Sys2Proof.Machine

/-- A request whose operation belongs to another agent is not accepted (60_exceptions.md R276). -/
theorem accept_eq_wrongAgent {r : Request} {i : Instr} (hdec : decode r.word = .ok i) (hag : r.agent ≠ i.agent) :
    accept r = .error .wrongAgent := by
  rw [accept, hdec]
  exact if_neg hag.symm

/-- A step whose first request is not accepted is refused as the request is. -/
theorem step_of_not_accepted {s : State} {r : Request} {rest : List Request} {e : Refusal} (hp : s.pending = r :: rest)
    (ha : accept r = .error e) : step s = .refused e := by
  simp only [step, hp, ha]

/-- Settles O8: the table row by row, and a request of another agent is not accepted. -/
theorem wrongAgentRefused : Obligations.WrongAgentRefused :=
  ⟨⟨rfl, rfl, rfl, fun _ _ => rfl, rfl, rfl, fun _ => rfl, fun _ _ => rfl, rfl, fun _ => rfl, rfl, rfl, rfl, rfl, rfl,
      fun _ => rfl, fun _ _ => rfl⟩,
    fun _ _ _ _ hp hdec hag => step_of_not_accepted hp (accept_eq_wrongAgent hdec hag)⟩

/-- Settles O22: a refused subscribe leaves `index_armed` as it was, also where it was set. -/
theorem indexArming : Obligations.IndexArming := by
  refine fun s => ⟨fun hsub => ?_, fun hsub => ?_, rfl⟩
  · rw [exec, execArmIndex, hsub, Bool.or_true]
    rfl
  · rw [exec, execArmIndex, hsub, Bool.or_false]
    rfl

end Sys2Proof.Machine
end
